-- ==== Sys2Proof/Word.lean ====
section
/-! DEFINITION. The word and address types of the CORE, and the machine's plainest arithmetic. -/

namespace Sys2Proof

/-- MachineWord: 16 bits, the unit of memory, of the 16-bit registers and of instructions (00_scope.md R5). -/
abbrev Word := BitVec 16

/-- A 12-bit address: the width of PC, MAR and effective addresses (20_memory.md R61). -/
abbrev Addr := BitVec 12

/-- A 4-bit value: the width of CC and of MFR (10_state.md R38, R42). -/
abbrev Nibble := BitVec 4

end Sys2Proof
end

