-- ==== Sys2Proof/Config.lean ====
section
/-! DEFINITION. What an implementation fixes: the memory size, which the spec gives, and the values the spec leaves
open, which are constants with no body, so that no proof can see what they are. -/

namespace Sys2Proof

/-- `MEM_WORDS`: addresses 0 to 2047 exist (00_scope.md R5). -/
def Config.memWords : Nat := 2048

/-- The seed of the parameter `MFR_ILLEGAL_OPERAND` (00_scope.md R6; decision D9 leaves it OPEN). The parameter itself is
`Machine.mfrIllegalOperand`, which turns this free value into a non-zero one.
DESIGN CHOICE, log entry 1, safe. -/
opaque Config.illegalOperandSeed : Nibble

/-- Which of several out-of-range arguments the range fault of a host operation names, as an index into the list of
the bad ones. The spec says only `MemFault(Range argument)` (43_boundary_operations.md R244, R245).
DESIGN CHOICE, log entry 26, safe. -/
opaque Config.reportedArgument : List Int → Nat

end Sys2Proof
end

