-- ==== Sys2Proof/Syntax.lean ====
section
/-! DEFINITION. The instruction set's syntax: register names, mnemonics, and one constructor of `Instr` for each of the
64 rows of spec/opcode_table.json. Operands stand in the assembler's order (30_encoding.md R113 to R122, R128). -/

namespace Sys2Proof

/-- The general registers (10_state.md R32). Every 2-bit value names one. -/
inductive Gpr where
  | r0 | r1 | r2 | r3
deriving DecidableEq, Repr

/-- The index registers (10_state.md R34). There is no index register 0: an IX field is an `Option Ixr`, whose `none` is
the field value 0. -/
inductive Ixr where
  | x1 | x2 | x3
deriving DecidableEq, Repr

/-- The 28 mnemonics of the codec (30_encoding.md R110, R112). -/
inductive Mnemonic where
  | hlt | ldr | str | lda | amr | smr | air
  | sir | jz | jne | jcc | rfs | sob | jge
  | trap | src | rrc | ldx | stx | inp | out
  | chk | mlt | dvd | trr | andr | orr | notr
deriving DecidableEq, Repr

/-- Every mnemonic, in the order of the opcode table. -/
def Mnemonic.all : List Mnemonic :=
  [.hlt, .ldr, .str, .lda, .amr, .smr, .air,
   .sir, .jz, .jne, .jcc, .rfs, .sob, .jge,
   .trap, .src, .rrc, .ldx, .stx, .inp, .out,
   .chk, .mlt, .dvd, .trr, .andr, .orr, .notr]

/-- One constructor per row of spec/opcode_table.json, in the table's order. `r`, `rx`, `ry` are general registers, `ix`
an IX field, `ind` the indirect bit, `addr` the 5-bit address. The A/L and L/R bits are carried uninterpreted
(30_encoding.md R103; log entry 24). HLT, TRAP and the unassigned rows have no operand (R122, R224; log entries 4, 13, 22). -/
inductive Instr where
  /-- HLT, opcode 0. Halt (R200). -/
  | hlt
  /-- LDR, opcode 1. Load register from memory (R180). -/
  | ldr (r : Gpr) (ix : Option Ixr) (ind : Bool) (addr : BitVec 5)
  /-- STR, opcode 2. Store register to memory (R181). -/
  | str (r : Gpr) (ix : Option Ixr) (ind : Bool) (addr : BitVec 5)
  /-- LDA, opcode 3. Load register with address (R182). -/
  | lda (r : Gpr) (ix : Option Ixr) (ind : Bool) (addr : BitVec 5)
  /-- AMR, opcode 4. Known to the codec, not executed (R207). -/
  | amr (r : Gpr) (ix : Option Ixr) (ind : Bool) (addr : BitVec 5)
  /-- SMR, opcode 5. Known to the codec, not executed (R208). -/
  | smr (r : Gpr) (ix : Option Ixr) (ind : Bool) (addr : BitVec 5)
  /-- AIR, opcode 6. Known to the codec, not executed (R202). -/
  | air (r : Gpr) (imm : BitVec 5)
  /-- SIR, opcode 7. Known to the codec, not executed (R203). -/
  | sir (r : Gpr) (imm : BitVec 5)
  /-- JZ, opcode 8. Known to the codec, not executed (R204). -/
  | jz (r : Gpr) (ix : Option Ixr) (ind : Bool) (addr : BitVec 5)
  /-- JNE, opcode 9. Known to the codec, not executed (R209). -/
  | jne (r : Gpr) (ix : Option Ixr) (ind : Bool) (addr : BitVec 5)
  /-- JCC, opcode 10. Known to the codec, not executed (R210). -/
  | jcc (cc : BitVec 2) (ix : Option Ixr) (ind : Bool) (addr : BitVec 5)
  /-- unassigned_0o13, opcode 11. No mnemonic (R224). -/
  | unassigned_0o13
  /-- unassigned_0o14, opcode 12. No mnemonic (R224). -/
  | unassigned_0o14
  /-- RFS, opcode 13. Known to the codec, not executed (R211). -/
  | rfs (imm : BitVec 5)
  /-- SOB, opcode 14. Known to the codec, not executed (R212). -/
  | sob (r : Gpr) (ix : Option Ixr) (ind : Bool) (addr : BitVec 5)
  /-- JGE, opcode 15. Known to the codec, not executed (R213). -/
  | jge (r : Gpr) (ix : Option Ixr) (ind : Bool) (addr : BitVec 5)
  /-- unassigned_0o20, opcode 16. No mnemonic (R224). -/
  | unassigned_0o20
  /-- unassigned_0o21, opcode 17. No mnemonic (R224). -/
  | unassigned_0o21
  /-- unassigned_0o22, opcode 18. No mnemonic (R224). -/
  | unassigned_0o22
  /-- unassigned_0o23, opcode 19. No mnemonic (R224). -/
  | unassigned_0o23
  /-- unassigned_0o24, opcode 20. No mnemonic (R224). -/
  | unassigned_0o24
  /-- unassigned_0o25, opcode 21. No mnemonic (R224). -/
  | unassigned_0o25
  /-- unassigned_0o26, opcode 22. No mnemonic (R224). -/
  | unassigned_0o26
  /-- unassigned_0o27, opcode 23. No mnemonic (R224). -/
  | unassigned_0o27
  /-- TRAP, opcode 24. Known to the codec, not executed (R206). -/
  | trap
  /-- SRC, opcode 25. Known to the codec, not executed (R219). -/
  | src (r : Gpr) (count : BitVec 4) (lr al : BitVec 1)
  /-- RRC, opcode 26. Known to the codec, not executed (R220). -/
  | rrc (r : Gpr) (count : BitVec 4) (lr al : BitVec 1)
  /-- unassigned_0o33, opcode 27. No mnemonic (R224). -/
  | unassigned_0o33
  /-- unassigned_0o34, opcode 28. No mnemonic (R224). -/
  | unassigned_0o34
  /-- unassigned_0o35, opcode 29. No mnemonic (R224). -/
  | unassigned_0o35
  /-- unassigned_0o36, opcode 30. No mnemonic (R224). -/
  | unassigned_0o36
  /-- unassigned_0o37, opcode 31. No mnemonic (R224). -/
  | unassigned_0o37
  /-- unassigned_0o40, opcode 32. No mnemonic (R224). -/
  | unassigned_0o40
  /-- LDX, opcode 33. Load index register; `ix = none` is the IX field 0 (R183). -/
  | ldx (ix : Option Ixr) (ind : Bool) (addr : BitVec 5)
  /-- STX, opcode 34. Store index register; `ix = none` is the IX field 0 (R184). -/
  | stx (ix : Option Ixr) (ind : Bool) (addr : BitVec 5)
  /-- unassigned_0o43, opcode 35. No mnemonic (R224). -/
  | unassigned_0o43
  /-- unassigned_0o44, opcode 36. No mnemonic (R224). -/
  | unassigned_0o44
  /-- unassigned_0o45, opcode 37. No mnemonic (R224). -/
  | unassigned_0o45
  /-- unassigned_0o46, opcode 38. No mnemonic (R224). -/
  | unassigned_0o46
  /-- unassigned_0o47, opcode 39. No mnemonic (R224). -/
  | unassigned_0o47
  /-- unassigned_0o50, opcode 40. No mnemonic (R224). -/
  | unassigned_0o50
  /-- unassigned_0o51, opcode 41. No mnemonic (R224). -/
  | unassigned_0o51
  /-- unassigned_0o52, opcode 42. No mnemonic (R224). -/
  | unassigned_0o52
  /-- unassigned_0o53, opcode 43. No mnemonic (R224). -/
  | unassigned_0o53
  /-- unassigned_0o54, opcode 44. No mnemonic (R224). -/
  | unassigned_0o54
  /-- unassigned_0o55, opcode 45. No mnemonic (R224). -/
  | unassigned_0o55
  /-- unassigned_0o56, opcode 46. No mnemonic (R224). -/
  | unassigned_0o56
  /-- unassigned_0o57, opcode 47. No mnemonic (R224). -/
  | unassigned_0o57
  /-- unassigned_0o60, opcode 48. No mnemonic (R224). -/
  | unassigned_0o60
  /-- IN, opcode 49. Known to the codec, not executed (R221). -/
  | inp (r : Gpr) (devid : BitVec 5)
  /-- OUT, opcode 50. Known to the codec, not executed (R222). -/
  | out (r : Gpr) (devid : BitVec 5)
  /-- CHK, opcode 51. Known to the codec, not executed (R223). -/
  | chk (r : Gpr) (devid : BitVec 5)
  /-- unassigned_0o64, opcode 52. No mnemonic (R224). -/
  | unassigned_0o64
  /-- unassigned_0o65, opcode 53. No mnemonic (R224). -/
  | unassigned_0o65
  /-- unassigned_0o66, opcode 54. No mnemonic (R224). -/
  | unassigned_0o66
  /-- unassigned_0o67, opcode 55. No mnemonic (R224). -/
  | unassigned_0o67
  /-- MLT, opcode 56. Known to the codec, not executed (R205). -/
  | mlt (rx ry : Gpr)
  /-- DVD, opcode 57. Known to the codec, not executed (R214). -/
  | dvd (rx ry : Gpr)
  /-- TRR, opcode 58. Known to the codec, not executed (R215). -/
  | trr (rx ry : Gpr)
  /-- AND, opcode 59. Known to the codec, not executed (R216). -/
  | andr (rx ry : Gpr)
  /-- ORR, opcode 60. Known to the codec, not executed (R217). -/
  | orr (rx ry : Gpr)
  /-- NOT, opcode 61. Known to the codec, not executed (R218). -/
  | notr (rx : Gpr)
  /-- unassigned_0o76, opcode 62. No mnemonic (R224). -/
  | unassigned_0o76
  /-- unassigned_0o77, opcode 63. No mnemonic (R224). -/
  | unassigned_0o77
deriving DecidableEq, Repr

/-- The mnemonic of an instruction; none for an opcode value that has no mnemonic (42_halt_and_unsupported.md R224). -/
def Instr.mnemonic : Instr → Option Mnemonic
  | .hlt => some .hlt
  | .ldr _ _ _ _ => some .ldr
  | .str _ _ _ _ => some .str
  | .lda _ _ _ _ => some .lda
  | .amr _ _ _ _ => some .amr
  | .smr _ _ _ _ => some .smr
  | .air _ _ => some .air
  | .sir _ _ => some .sir
  | .jz _ _ _ _ => some .jz
  | .jne _ _ _ _ => some .jne
  | .jcc _ _ _ _ => some .jcc
  | .unassigned_0o13 => none
  | .unassigned_0o14 => none
  | .rfs _ => some .rfs
  | .sob _ _ _ _ => some .sob
  | .jge _ _ _ _ => some .jge
  | .unassigned_0o20 => none
  | .unassigned_0o21 => none
  | .unassigned_0o22 => none
  | .unassigned_0o23 => none
  | .unassigned_0o24 => none
  | .unassigned_0o25 => none
  | .unassigned_0o26 => none
  | .unassigned_0o27 => none
  | .trap => some .trap
  | .src _ _ _ _ => some .src
  | .rrc _ _ _ _ => some .rrc
  | .unassigned_0o33 => none
  | .unassigned_0o34 => none
  | .unassigned_0o35 => none
  | .unassigned_0o36 => none
  | .unassigned_0o37 => none
  | .unassigned_0o40 => none
  | .ldx _ _ _ => some .ldx
  | .stx _ _ _ => some .stx
  | .unassigned_0o43 => none
  | .unassigned_0o44 => none
  | .unassigned_0o45 => none
  | .unassigned_0o46 => none
  | .unassigned_0o47 => none
  | .unassigned_0o50 => none
  | .unassigned_0o51 => none
  | .unassigned_0o52 => none
  | .unassigned_0o53 => none
  | .unassigned_0o54 => none
  | .unassigned_0o55 => none
  | .unassigned_0o56 => none
  | .unassigned_0o57 => none
  | .unassigned_0o60 => none
  | .inp _ _ => some .inp
  | .out _ _ => some .out
  | .chk _ _ => some .chk
  | .unassigned_0o64 => none
  | .unassigned_0o65 => none
  | .unassigned_0o66 => none
  | .unassigned_0o67 => none
  | .mlt _ _ => some .mlt
  | .dvd _ _ => some .dvd
  | .trr _ _ => some .trr
  | .andr _ _ => some .andr
  | .orr _ _ => some .orr
  | .notr _ => some .notr
  | .unassigned_0o76 => none
  | .unassigned_0o77 => none

/-- The 36 opcode values with no mnemonic (42_halt_and_unsupported.md R224). -/
def Instr.unassigned : List Instr :=
  [.unassigned_0o13, .unassigned_0o14, .unassigned_0o20, .unassigned_0o21, .unassigned_0o22, .unassigned_0o23,
   .unassigned_0o24, .unassigned_0o25, .unassigned_0o26, .unassigned_0o27, .unassigned_0o33, .unassigned_0o34,
   .unassigned_0o35, .unassigned_0o36, .unassigned_0o37, .unassigned_0o40, .unassigned_0o43, .unassigned_0o44,
   .unassigned_0o45, .unassigned_0o46, .unassigned_0o47, .unassigned_0o50, .unassigned_0o51, .unassigned_0o52,
   .unassigned_0o53, .unassigned_0o54, .unassigned_0o55, .unassigned_0o56, .unassigned_0o57, .unassigned_0o60,
   .unassigned_0o64, .unassigned_0o65, .unassigned_0o66, .unassigned_0o67, .unassigned_0o76, .unassigned_0o77]

end Sys2Proof
end

