-- ==== Sys2Proof/WellFormed.lean ====
section
/-! DEFINITION. Which instructions the encoder may be asked for: the operand contracts of 30_encoding.md R113 to R122. The
widths of the operands are in their types; what is left to check is the index operand of LDX and STX and that the opcode
has a mnemonic at all. An instruction that is not well formed can still be met by the CPU and has its meaning there. -/

namespace Sys2Proof

/-- The operand contracts. LDX and STX "take `index(1..3, never 0)`" (R114), and the encoder never produces an opcode
without a mnemonic (42_halt_and_unsupported.md R224). Every other operand is in range by its type. -/
def Instr.wellFormed : Instr → Bool
  | .hlt => true
  | .ldr _ _ _ _ => true
  | .str _ _ _ _ => true
  | .lda _ _ _ _ => true
  | .amr _ _ _ _ => true
  | .smr _ _ _ _ => true
  | .air _ _ => true
  | .sir _ _ => true
  | .jz _ _ _ _ => true
  | .jne _ _ _ _ => true
  | .jcc _ _ _ _ => true
  | .unassigned_0o13 => false
  | .unassigned_0o14 => false
  | .rfs _ => true
  | .sob _ _ _ _ => true
  | .jge _ _ _ _ => true
  | .unassigned_0o20 => false
  | .unassigned_0o21 => false
  | .unassigned_0o22 => false
  | .unassigned_0o23 => false
  | .unassigned_0o24 => false
  | .unassigned_0o25 => false
  | .unassigned_0o26 => false
  | .unassigned_0o27 => false
  | .trap => true
  | .src _ _ _ _ => true
  | .rrc _ _ _ _ => true
  | .unassigned_0o33 => false
  | .unassigned_0o34 => false
  | .unassigned_0o35 => false
  | .unassigned_0o36 => false
  | .unassigned_0o37 => false
  | .unassigned_0o40 => false
  | .ldx ix _ _ => ix.isSome
  | .stx ix _ _ => ix.isSome
  | .unassigned_0o43 => false
  | .unassigned_0o44 => false
  | .unassigned_0o45 => false
  | .unassigned_0o46 => false
  | .unassigned_0o47 => false
  | .unassigned_0o50 => false
  | .unassigned_0o51 => false
  | .unassigned_0o52 => false
  | .unassigned_0o53 => false
  | .unassigned_0o54 => false
  | .unassigned_0o55 => false
  | .unassigned_0o56 => false
  | .unassigned_0o57 => false
  | .unassigned_0o60 => false
  | .inp _ _ => true
  | .out _ _ => true
  | .chk _ _ => true
  | .unassigned_0o64 => false
  | .unassigned_0o65 => false
  | .unassigned_0o66 => false
  | .unassigned_0o67 => false
  | .mlt _ _ => true
  | .dvd _ _ => true
  | .trr _ _ => true
  | .andr _ _ => true
  | .orr _ _ => true
  | .notr _ => true
  | .unassigned_0o76 => false
  | .unassigned_0o77 => false

end Sys2Proof
end

