-- ==== Sys2Proof/Decode.lean ====
section
/-! DEFINITION. The Instruction Format Codec: the four layouts in both directions, the opcode numbers, the decoder of
16-bit words (total: every word is some row of the opcode table) and, after it, the encoder. -/

namespace Sys2Proof

/-! ### The four layouts (30_encoding.md R101 to R107)

Each encoder reduces its arguments modulo their field sizes, so a tuple comes back from its decoder exactly when every
value fits its field; each decoder drops the bits of no field, which its encoder writes as 0 (R107). -/

/-- `v[lo + n - 1 : lo]` of a word (00_scope.md R7). -/
def field (w : Word) (lo n : Nat) : BitVec n := w.extractLsb' lo n

/-- The field tuple of the LS layout (R101). -/
structure LsFields where
  op : BitVec 6
  r : BitVec 2
  ix : BitVec 2
  i : BitVec 1
  addr : BitVec 5
deriving DecidableEq, Repr

/-- The field tuple of the RR layout (R102). -/
structure RrFields where
  op : BitVec 6
  rx : BitVec 2
  ry : BitVec 2
deriving DecidableEq, Repr

/-- The field tuple of the Shift/Rotate layout (R103). -/
structure ShFields where
  op : BitVec 6
  r : BitVec 2
  al : BitVec 1
  lr : BitVec 1
  count : BitVec 4
deriving DecidableEq, Repr

/-- The field tuple of the I/O layout (R104). -/
structure IoFields where
  op : BitVec 6
  r : BitVec 2
  devid : BitVec 5
deriving DecidableEq, Repr

/-- `encLS` of R105, on natural numbers, each reduced modulo its field's size. -/
def encLS (op r ix i addr : Nat) : Word :=
  BitVec.ofNat 16 ((op % 64) <<< 10 ||| (r % 4) <<< 8 ||| (ix % 4) <<< 6 ||| (i % 2) <<< 5 ||| addr % 32)

/-- `encRR` of R105. -/
def encRR (op rx ry : Nat) : Word :=
  BitVec.ofNat 16 ((op % 64) <<< 10 ||| (rx % 4) <<< 8 ||| (ry % 4) <<< 6)

/-- `encSH` of R105. -/
def encSH (op r al lr count : Nat) : Word :=
  BitVec.ofNat 16
    ((op % 64) <<< 10 ||| (r % 4) <<< 8 ||| (al % 2) <<< 7 ||| (lr % 2) <<< 6 ||| (count % 16) <<< 2)

/-- `encIO` of R105. -/
def encIO (op r devid : Nat) : Word :=
  BitVec.ofNat 16 ((op % 64) <<< 10 ||| (r % 4) <<< 8 ||| devid % 32)

/-- `decLS` of R106: the inverse of `encLS` on values that fit their fields; LS has no unused bit (R107). -/
def decLS (w : Word) : LsFields :=
  ⟨field w 10 6, field w 8 2, field w 6 2, field w 5 1, field w 0 5⟩

/-- `decRR` of R106, the inverse of `encRR` on values that fit their fields (R107); bits 5..0 are ignored. -/
def decRR (w : Word) : RrFields := ⟨field w 10 6, field w 8 2, field w 6 2⟩

/-- `decSH` of R106, the inverse of `encSH` on values that fit their fields (R107); bits 1..0 are ignored. -/
def decSH (w : Word) : ShFields := ⟨field w 10 6, field w 8 2, field w 7 1, field w 6 1, field w 2 4⟩

/-- `decIO` of R106, the inverse of `encIO` on values that fit their fields (R107); bits 7..5 are ignored. -/
def decIO (w : Word) : IoFields := ⟨field w 10 6, field w 8 2, field w 0 5⟩

/-! ### The round-trip law (30_encoding.md R107)

The values of a field tuple fit their fields by their types, so a field tuple is a valid tuple `t` of R107, and `t.encode` is
its `encL(t)`: `decL(t.encode) = t` for every `t`. `(decL w).encode` is `w` with its unused bits 0, so it is `w` exactly when
they are 0. -/

/-- `encLS(t)` of R107 for a tuple that fits. LS has no unused bit: `(decLS w).encode = w` for every word. -/
def LsFields.encode (t : LsFields) : Word := encLS t.op.toNat t.r.toNat t.ix.toNat t.i.toNat t.addr.toNat

/-- `encRR(t)` of R107 for a tuple that fits. -/
def RrFields.encode (t : RrFields) : Word := encRR t.op.toNat t.rx.toNat t.ry.toNat

/-- `encSH(t)` of R107 for a tuple that fits. -/
def ShFields.encode (t : ShFields) : Word := encSH t.op.toNat t.r.toNat t.al.toNat t.lr.toNat t.count.toNat

/-- `encIO(t)` of R107 for a tuple that fits. -/
def IoFields.encode (t : IoFields) : Word := encIO t.op.toNat t.r.toNat t.devid.toNat

/-- The unused bits of R107 in the RR layout, bits 5..0 (R102): `(decRR w).encode = w` exactly when they are 0. -/
def unusedRR (w : Word) : BitVec 6 := field w 0 6

/-- The unused bits of R107 in the Shift/Rotate layout, bits 1..0 (R103): `(decSH w).encode = w` exactly when they are 0. -/
def unusedSH (w : Word) : BitVec 2 := field w 0 2

/-- The unused bits of R107 in the I/O layout, bits 7..5 (R104): `(decIO w).encode = w` exactly when they are 0. -/
def unusedIO (w : Word) : BitVec 3 := field w 5 3

/-! ### Register numbers -/

/-- The general register a 2-bit field names; all four values name one (10_state.md R32). -/
def gprOfField (b : BitVec 2) : Gpr :=
  match b.toFin with
  | 0 => .r0
  | 1 => .r1
  | 2 => .r2
  | 3 => .r3

/-- The number of a general register. -/
def gprNumber : Gpr → Nat
  | .r0 => 0
  | .r1 => 1
  | .r2 => 2
  | .r3 => 3

/-- The index register an IX field names: 0 selects no storage (10_state.md R34). -/
def ixOfField (b : BitVec 2) : Option Ixr :=
  match b.toFin with
  | 0 => none
  | 1 => some .x1
  | 2 => some .x2
  | 3 => some .x3

/-- The IX field's value. -/
def ixNumber : Option Ixr → Nat
  | none => 0
  | some .x1 => 1
  | some .x2 => 2
  | some .x3 => 3

/-- The I field as a truth value: 1 means indirect (R101). -/
def indirectOfField (b : BitVec 1) : Bool := b == 1#1

/-- The I field's value. -/
def indirectNumber (ind : Bool) : Nat := if ind then 1 else 0

/-! ### Opcode numbers (30_encoding.md R110 to R112) -/

/-- An assignment of opcode numbers to mnemonics: the parameters `OPC_<mnemonic>` of 00_scope.md R6 beside the eleven
printed numbers. -/
abbrev OpcodeNumbers := Mnemonic → BitVec 6

/-- The eleven numbers the source prints (R110). -/
def printedOpcode : Mnemonic → Option (BitVec 6)
  | .hlt => some 0#6
  | .ldr => some 1#6
  | .str => some 2#6
  | .lda => some 3#6
  | .air => some 6#6
  | .sir => some 7#6
  | .jz => some 8#6
  | .trap => some 24#6
  | .ldx => some 33#6
  | .stx => some 34#6
  | .mlt => some 56#6
  | .amr | .smr | .jne | .jcc | .rfs | .sob | .jge | .src | .rrc | .inp | .out | .chk | .dvd | .trr | .andr | .orr
  | .notr => none

/-- The constraint of R112: the printed numbers are as printed and the 28 numbers are pairwise distinct. -/
def OpcodeNumbers.Admissible (n : OpcodeNumbers) : Prop :=
  (∀ m k, printedOpcode m = some k → n m = k) ∧ ∀ m m', n m = n m' → m = m'

/-- The opcode table's numbers: the printed ones, and the defaults of R112 for the other 17, which the spec marks as
general knowledge. PRESUMED, log entry 3: unsafe for claims about the encoder of those 17 mnemonics, without effect on
the CPU. -/
def defaultOpcode : OpcodeNumbers
  | .hlt => 0#6
  | .ldr => 1#6
  | .str => 2#6
  | .lda => 3#6
  | .amr => 4#6
  | .smr => 5#6
  | .air => 6#6
  | .sir => 7#6
  | .jz => 8#6
  | .jne => 9#6
  | .jcc => 10#6
  | .rfs => 13#6
  | .sob => 14#6
  | .jge => 15#6
  | .trap => 24#6
  | .src => 25#6
  | .rrc => 26#6
  | .ldx => 33#6
  | .stx => 34#6
  | .inp => 49#6
  | .out => 50#6
  | .chk => 51#6
  | .mlt => 56#6
  | .dvd => 57#6
  | .trr => 58#6
  | .andr => 59#6
  | .orr => 60#6
  | .notr => 61#6

/-! ### The operand fields of TRAP -/

/-- A field of a word: its lowest bit and its width. -/
structure OperandField where
  lo : Nat
  width : Nat
deriving DecidableEq, Repr

/-- The parameter `TRAP_LAYOUT`: the operand fields of TRAP below its opcode, whose number, places and widths the source
does not give (00_scope.md R6, decision D16; log entry 4). The definitions that need it take it as an argument. -/
abbrev TrapLayout := List OperandField

/-- What makes a list of fields a layout of operands: none reaches into the opcode, bits 15..10, and no two overlap. -/
def TrapLayout.Admissible (l : TrapLayout) : Prop :=
  (∀ f ∈ l, f.lo + f.width ≤ 10) ∧ l.Pairwise fun f g => f.lo + f.width ≤ g.lo ∨ g.lo + g.width ≤ f.lo

/-- The operands a TRAP word holds under a layout. The CPU uses none of them, since TRAP is an illegal opcode whatever its low
bits are (42_halt_and_unsupported.md R206); and there is no encoder of TRAP operands (30_encoding.md R122). -/
def trapOperands (trapLayout : TrapLayout) (w : Word) : List Nat := trapLayout.map fun f => (field w f.lo f.width).toNat

/-! ### The decoder -/

/-- The instruction of mnemonic `m` with the operands that the word `w` holds for it: each field goes to the operand that
the contract of R113 to R122 puts there, and fields the contract does not name are ignored (R108; log entry 13). -/
def operandsOf (m : Mnemonic) (w : Word) : Instr :=
  let ls := decLS w
  let rr := decRR w
  let sh := decSH w
  let io := decIO w
  let r := gprOfField ls.r
  let ix := ixOfField ls.ix
  let ind := indirectOfField ls.i
  match m with
  | .hlt => .hlt
  | .ldr => .ldr r ix ind ls.addr
  | .str => .str r ix ind ls.addr
  | .lda => .lda r ix ind ls.addr
  | .amr => .amr r ix ind ls.addr
  | .smr => .smr r ix ind ls.addr
  | .air => .air r ls.addr
  | .sir => .sir r ls.addr
  | .jz => .jz r ix ind ls.addr
  | .jne => .jne r ix ind ls.addr
  | .jcc => .jcc ls.r ix ind ls.addr
  | .rfs => .rfs ls.addr
  | .sob => .sob r ix ind ls.addr
  | .jge => .jge r ix ind ls.addr
  | .trap => .trap
  | .src => .src (gprOfField sh.r) sh.count sh.lr sh.al
  | .rrc => .rrc (gprOfField sh.r) sh.count sh.lr sh.al
  | .ldx => .ldx ix ind ls.addr
  | .stx => .stx ix ind ls.addr
  | .inp => .inp (gprOfField io.r) io.devid
  | .out => .out (gprOfField io.r) io.devid
  | .chk => .chk (gprOfField io.r) io.devid
  | .mlt => .mlt (gprOfField rr.rx) (gprOfField rr.ry)
  | .dvd => .dvd (gprOfField rr.rx) (gprOfField rr.ry)
  | .trr => .trr (gprOfField rr.rx) (gprOfField rr.ry)
  | .andr => .andr (gprOfField rr.rx) (gprOfField rr.ry)
  | .orr => .orr (gprOfField rr.rx) (gprOfField rr.ry)
  | .notr => .notr (gprOfField rr.rx)

/-- The decoder of the opcode table: the row is chosen by the opcode field `w[15:10]` alone (R109). It is total and
rejects nothing: every word is an instruction of some row, and legality is judged by the execute phase
(40_cpu_cycle.md R152). -/
def decode (w : Word) : Instr :=
  match (decLS w).op.toNat with
  | 0 => operandsOf .hlt w
  | 1 => operandsOf .ldr w
  | 2 => operandsOf .str w
  | 3 => operandsOf .lda w
  | 4 => operandsOf .amr w
  | 5 => operandsOf .smr w
  | 6 => operandsOf .air w
  | 7 => operandsOf .sir w
  | 8 => operandsOf .jz w
  | 9 => operandsOf .jne w
  | 10 => operandsOf .jcc w
  | 11 => .unassigned_0o13
  | 12 => .unassigned_0o14
  | 13 => operandsOf .rfs w
  | 14 => operandsOf .sob w
  | 15 => operandsOf .jge w
  | 16 => .unassigned_0o20
  | 17 => .unassigned_0o21
  | 18 => .unassigned_0o22
  | 19 => .unassigned_0o23
  | 20 => .unassigned_0o24
  | 21 => .unassigned_0o25
  | 22 => .unassigned_0o26
  | 23 => .unassigned_0o27
  | 24 => operandsOf .trap w
  | 25 => operandsOf .src w
  | 26 => operandsOf .rrc w
  | 27 => .unassigned_0o33
  | 28 => .unassigned_0o34
  | 29 => .unassigned_0o35
  | 30 => .unassigned_0o36
  | 31 => .unassigned_0o37
  | 32 => .unassigned_0o40
  | 33 => operandsOf .ldx w
  | 34 => operandsOf .stx w
  | 35 => .unassigned_0o43
  | 36 => .unassigned_0o44
  | 37 => .unassigned_0o45
  | 38 => .unassigned_0o46
  | 39 => .unassigned_0o47
  | 40 => .unassigned_0o50
  | 41 => .unassigned_0o51
  | 42 => .unassigned_0o52
  | 43 => .unassigned_0o53
  | 44 => .unassigned_0o54
  | 45 => .unassigned_0o55
  | 46 => .unassigned_0o56
  | 47 => .unassigned_0o57
  | 48 => .unassigned_0o60
  | 49 => operandsOf .inp w
  | 50 => operandsOf .out w
  | 51 => operandsOf .chk w
  | 52 => .unassigned_0o64
  | 53 => .unassigned_0o65
  | 54 => .unassigned_0o66
  | 55 => .unassigned_0o67
  | 56 => operandsOf .mlt w
  | 57 => operandsOf .dvd w
  | 58 => operandsOf .trr w
  | 59 => operandsOf .andr w
  | 60 => operandsOf .orr w
  | 61 => operandsOf .notr w
  | 62 => .unassigned_0o76
  | _ => .unassigned_0o77

/-- The mnemonic a numbering gives an opcode, if any. -/
def mnemonicUnder (n : OpcodeNumbers) (op : BitVec 6) : Option Mnemonic := Mnemonic.all.find? fun m => n m == op

/-- The decoder under any opcode numbering: an opcode that the numbering gives no mnemonic is refused (R112). -/
def decodeUnder (n : OpcodeNumbers) (w : Word) : Option Instr :=
  (mnemonicUnder n (decLS w).op).map fun m => operandsOf m w

/-- The host's numbering of an opcode-table word: one word of 16 bits. A row that needed more bits than that would be no
instruction of this machine (R100). -/
def decodeTableWord (nbits w : Nat) : Option Instr :=
  if nbits ≤ 16 then some (decode (BitVec.ofNat 16 (w % 2 ^ nbits))) else none

/-! ### The encoder -/

/-- The word of an instruction whose opcode number is `op`: the operand contracts R113 to R122, with 0 in every field a
contract does not supply (R108; log entries 13 and 21). -/
def encodeFields (op : Nat) : Instr → Word
  | .hlt => encLS op 0 0 0 0
  | .ldr r ix ind addr => encLS op (gprNumber r) (ixNumber ix) (indirectNumber ind) addr.toNat
  | .str r ix ind addr => encLS op (gprNumber r) (ixNumber ix) (indirectNumber ind) addr.toNat
  | .lda r ix ind addr => encLS op (gprNumber r) (ixNumber ix) (indirectNumber ind) addr.toNat
  | .amr r ix ind addr => encLS op (gprNumber r) (ixNumber ix) (indirectNumber ind) addr.toNat
  | .smr r ix ind addr => encLS op (gprNumber r) (ixNumber ix) (indirectNumber ind) addr.toNat
  | .air r imm => encLS op (gprNumber r) 0 0 imm.toNat
  | .sir r imm => encLS op (gprNumber r) 0 0 imm.toNat
  | .jz r ix ind addr => encLS op (gprNumber r) (ixNumber ix) (indirectNumber ind) addr.toNat
  | .jne r ix ind addr => encLS op (gprNumber r) (ixNumber ix) (indirectNumber ind) addr.toNat
  | .jcc cc ix ind addr => encLS op cc.toNat (ixNumber ix) (indirectNumber ind) addr.toNat
  | .unassigned_0o13 => encLS op 0 0 0 0
  | .unassigned_0o14 => encLS op 0 0 0 0
  | .rfs imm => encLS op 0 0 0 imm.toNat
  | .sob r ix ind addr => encLS op (gprNumber r) (ixNumber ix) (indirectNumber ind) addr.toNat
  | .jge r ix ind addr => encLS op (gprNumber r) (ixNumber ix) (indirectNumber ind) addr.toNat
  | .unassigned_0o20 => encLS op 0 0 0 0
  | .unassigned_0o21 => encLS op 0 0 0 0
  | .unassigned_0o22 => encLS op 0 0 0 0
  | .unassigned_0o23 => encLS op 0 0 0 0
  | .unassigned_0o24 => encLS op 0 0 0 0
  | .unassigned_0o25 => encLS op 0 0 0 0
  | .unassigned_0o26 => encLS op 0 0 0 0
  | .unassigned_0o27 => encLS op 0 0 0 0
  | .trap => encLS op 0 0 0 0
  | .src r count lr al => encSH op (gprNumber r) al.toNat lr.toNat count.toNat
  | .rrc r count lr al => encSH op (gprNumber r) al.toNat lr.toNat count.toNat
  | .unassigned_0o33 => encLS op 0 0 0 0
  | .unassigned_0o34 => encLS op 0 0 0 0
  | .unassigned_0o35 => encLS op 0 0 0 0
  | .unassigned_0o36 => encLS op 0 0 0 0
  | .unassigned_0o37 => encLS op 0 0 0 0
  | .unassigned_0o40 => encLS op 0 0 0 0
  | .ldx ix ind addr => encLS op 0 (ixNumber ix) (indirectNumber ind) addr.toNat
  | .stx ix ind addr => encLS op 0 (ixNumber ix) (indirectNumber ind) addr.toNat
  | .unassigned_0o43 => encLS op 0 0 0 0
  | .unassigned_0o44 => encLS op 0 0 0 0
  | .unassigned_0o45 => encLS op 0 0 0 0
  | .unassigned_0o46 => encLS op 0 0 0 0
  | .unassigned_0o47 => encLS op 0 0 0 0
  | .unassigned_0o50 => encLS op 0 0 0 0
  | .unassigned_0o51 => encLS op 0 0 0 0
  | .unassigned_0o52 => encLS op 0 0 0 0
  | .unassigned_0o53 => encLS op 0 0 0 0
  | .unassigned_0o54 => encLS op 0 0 0 0
  | .unassigned_0o55 => encLS op 0 0 0 0
  | .unassigned_0o56 => encLS op 0 0 0 0
  | .unassigned_0o57 => encLS op 0 0 0 0
  | .unassigned_0o60 => encLS op 0 0 0 0
  | .inp r devid => encIO op (gprNumber r) devid.toNat
  | .out r devid => encIO op (gprNumber r) devid.toNat
  | .chk r devid => encIO op (gprNumber r) devid.toNat
  | .unassigned_0o64 => encLS op 0 0 0 0
  | .unassigned_0o65 => encLS op 0 0 0 0
  | .unassigned_0o66 => encLS op 0 0 0 0
  | .unassigned_0o67 => encLS op 0 0 0 0
  | .mlt rx ry => encRR op (gprNumber rx) (gprNumber ry)
  | .dvd rx ry => encRR op (gprNumber rx) (gprNumber ry)
  | .trr rx ry => encRR op (gprNumber rx) (gprNumber ry)
  | .andr rx ry => encRR op (gprNumber rx) (gprNumber ry)
  | .orr rx ry => encRR op (gprNumber rx) (gprNumber ry)
  | .notr rx => encRR op (gprNumber rx) 0
  | .unassigned_0o76 => encLS op 0 0 0 0
  | .unassigned_0o77 => encLS op 0 0 0 0

/-- The number of an opcode value that has no mnemonic (42_halt_and_unsupported.md R224); 0 for an instruction with one. -/
def unassignedNumber : Instr → Nat
  | .unassigned_0o13 => 11
  | .unassigned_0o14 => 12
  | .unassigned_0o20 => 16
  | .unassigned_0o21 => 17
  | .unassigned_0o22 => 18
  | .unassigned_0o23 => 19
  | .unassigned_0o24 => 20
  | .unassigned_0o25 => 21
  | .unassigned_0o26 => 22
  | .unassigned_0o27 => 23
  | .unassigned_0o33 => 27
  | .unassigned_0o34 => 28
  | .unassigned_0o35 => 29
  | .unassigned_0o36 => 30
  | .unassigned_0o37 => 31
  | .unassigned_0o40 => 32
  | .unassigned_0o43 => 35
  | .unassigned_0o44 => 36
  | .unassigned_0o45 => 37
  | .unassigned_0o46 => 38
  | .unassigned_0o47 => 39
  | .unassigned_0o50 => 40
  | .unassigned_0o51 => 41
  | .unassigned_0o52 => 42
  | .unassigned_0o53 => 43
  | .unassigned_0o54 => 44
  | .unassigned_0o55 => 45
  | .unassigned_0o56 => 46
  | .unassigned_0o57 => 47
  | .unassigned_0o60 => 48
  | .unassigned_0o64 => 52
  | .unassigned_0o65 => 53
  | .unassigned_0o66 => 54
  | .unassigned_0o67 => 55
  | .unassigned_0o76 => 62
  | .unassigned_0o77 => 63
  | _ => 0

/-- The opcode number of an instruction under a numbering. -/
def opcodeUnder (n : OpcodeNumbers) (i : Instr) : Nat :=
  match i.mnemonic with
  | some m => (n m).toNat
  | none => unassignedNumber i

/-- The opcode number the opcode table gives an instruction. -/
def opcodeOf (i : Instr) : Nat := opcodeUnder defaultOpcode i

/-- The encoder under any opcode numbering. -/
def encodeUnder (n : OpcodeNumbers) (i : Instr) : Word := encodeFields (opcodeUnder n i) i

/-- The encoder of the opcode table. It is total; what it gives for an instruction that is not well formed is no word the
codec promises anything about. -/
def encode (i : Instr) : Word := encodeFields (opcodeOf i) i

end Sys2Proof
end

