-- ==== Sys2Proof/Machine/State.lean ====
section
/-! DEFINITION. The state of one Machine as plain data, the two kinds of stop, and the state after reset. -/

namespace Sys2Proof.Machine

/-- `MemFault(kind)`, the fault the Memory raises to its immediate caller (60_exceptions.md R260, class M). No step answers
`Host.Outcome.fault`: a `MemFault` met inside a CPU operation leaves the state that R264 describes, and is recorded in
`State.memFault`; raw memory operations and the host's operations return it as their reply. -/
inductive Fault where
  /-- `Range a`: raised by a latch, a peek or a poke whose address is not in 0..2047 (20_memory.md R65, R70, R71), and by
  a host operation one of whose arguments is too wide (R72, 43_boundary_operations.md R243 to R245). Going on after it
  rests on the spec's decision D8: unsafe, log entry 6. -/
  | range (a : Int)
  /-- `Protocol`: raised by a transfer that does not match the pending operation (20_memory.md R68). No CPU operation
  raises it (40_cpu_cycle.md R164). Safe. -/
  | protocol
deriving DecidableEq, Repr

/-- Why a step has no meaning. No arm of `exec` answers so: every row of the opcode table is modelled. -/
inductive Refusal where
  /-- Raised by an arm of `exec` for an instruction that has no meaning yet; there is none left. Safe. -/
  | notModelled (mnemonic : String)
deriving DecidableEq, Repr

/-- `PENDING`: what the last latch asked for and no transfer has yet completed (10_state.md R45). -/
inductive Pending where
  | none
  | read
  | write
deriving DecidableEq, Repr

/-- The Memory (10_state.md R30, R44, R45). `cells` lists the words that are not 0, by strictly rising address
(`Memory.wf`); an address that is not listed reads as 0, the reset contents (R47; log entry 15). -/
structure Memory where
  cells : List (Nat × Word)
  pending : Pending
  latchedAddr : BitVec 11
deriving DecidableEq, Repr

/-- The complete state of one Machine (10_state.md R30), and one field of the model's own, the last. -/
structure State where
  /-- `GPR[0]` to `GPR[3]` (R32). -/
  gpr0 : Word
  gpr1 : Word
  gpr2 : Word
  gpr3 : Word
  /-- `IXR[1]` to `IXR[3]` (R34). -/
  ixr1 : Word
  ixr2 : Word
  ixr3 : Word
  /-- Program counter (R36). -/
  pc : Addr
  /-- Memory address register (R39). -/
  mar : Addr
  /-- Memory buffer register (R40). -/
  mbr : Word
  /-- Instruction register (R41). -/
  ir : Word
  /-- Condition codes (R38). -/
  cc : Nibble
  /-- Machine-fault register (R42). -/
  mfr : Nibble
  /-- The HALTED flag (R43). -/
  halted : Bool
  /-- The Memory with its session state. -/
  memory : Memory
  /-- THE MODEL'S OWN FIELD, not state of the CORE (R49 (f)): the sticky mark of 60_exceptions.md R264 and
  93_implementation_defined.md U6, the first `MemFault` a CPU operation raised since reset. DESIGN CHOICE, log entry 20. -/
  memFault : Option Fault
deriving DecidableEq, Repr

/-- The state after reset: everything 0, not halted, nothing pending (10_state.md R47). -/
def State.reset : State where
  gpr0 := 0
  gpr1 := 0
  gpr2 := 0
  gpr3 := 0
  ixr1 := 0
  ixr2 := 0
  ixr3 := 0
  pc := 0
  mar := 0
  mbr := 0
  ir := 0
  cc := 0
  mfr := 0
  halted := false
  memory := ⟨[], .none, 0⟩
  memFault := none

end Sys2Proof.Machine
end

