-- ==== Sys2Proof/Machine/Flags.lean ====
section
/-! DEFINITION. The fault codes of MFR. No instruction of this CPU computes a flag: CC is read and written by no executed
instruction (10_state.md R38; log entry 5), so there is no flag computation to define. -/

namespace Sys2Proof.Machine

/-- The MFR code of the illegal-opcode fault (60_exceptions.md R261, R262). -/
def mfrIllegalOpcode : Nibble := 0b0100#4

/-- The parameter `MFR_ILLEGAL_OPERAND`, a non-zero 4-bit value (00_scope.md R6, 60_exceptions.md R261): the free constant of
Config, or the spec's default where that constant is 0. Every non-zero value is a possible value of it.
DESIGN CHOICE, log entry 1, safe. -/
def mfrIllegalOperand : Nibble := if Config.illegalOperandSeed = 0 then 0b0100#4 else Config.illegalOperandSeed

end Sys2Proof.Machine
end

