-- ==== Sys2Proof/Machine/Ops.lean ====
section
/-! DEFINITION. The named operations: the words of memory, the Memory's own six operations, the CPU's access sequences and
its fetch, and what raising a fault does. -/

namespace Sys2Proof.Machine

/-! ### Words of memory -/

/-- The word a cell list holds at an address; an address that is not listed reads as 0 (10_state.md R47). -/
def readCells : List (Nat × Word) → Nat → Word
  | [], _ => 0
  | (a, w) :: rest, k => if k = a then w else readCells rest k

/-- A cell list with the word at `k` replaced, kept in its canonical form. -/
def writeCells : List (Nat × Word) → Nat → Word → List (Nat × Word)
  | [], k, v => if v = 0 then [] else [(k, v)]
  | (a, w) :: rest, k, v =>
    if k < a then
      if v = 0 then (a, w) :: rest else (k, v) :: (a, w) :: rest
    else if k = a then
      if v = 0 then rest else (k, v) :: rest
    else (a, w) :: writeCells rest k v

/-- The canonical form from address `lo` on: addresses strictly rising, each at least `lo` and below 2048, no word 0. -/
def cellsWf (lo : Nat) : List (Nat × Word) → Bool
  | [] => true
  | (a, w) :: rest => decide (lo ≤ a) && decide (a < Config.memWords) && (w != 0) && cellsWf (a + 1) rest

/-- The canonical form of the Memory's contents. -/
def Memory.wf (m : Memory) : Bool := cellsWf 0 m.cells

/-- `MEM[a]` in statements about state; it is no access (00_scope.md R10). -/
def Memory.word (m : Memory) (a : Nat) : Word := readCells m.cells a

/-- The Memory with `MEM[a] <- v`, session state as it was. -/
def Memory.setWord (m : Memory) (a : Nat) (v : Word) : Memory := { m with cells := writeCells m.cells a v }

/-! ### The Memory's operations (20_memory.md R62 to R71) -/

/-- `LatchRead(a)`: R62, the range fault R65, and R64 for a latch over a pending operation (log entries 8, 9). -/
def Memory.latchRead (m : Memory) (a : Nat) : Except Fault Memory :=
  if a < Config.memWords then .ok { m with latchedAddr := BitVec.ofNat 11 a, pending := .read }
  else .error (.range a)

/-- `LatchWrite(a)`: R63, R64, R65. -/
def Memory.latchWrite (m : Memory) (a : Nat) : Except Fault Memory :=
  if a < Config.memWords then .ok { m with latchedAddr := BitVec.ofNat 11 a, pending := .write }
  else .error (.range a)

/-- `TransferRead()`: R66, and the protocol fault R68, which changes nothing (log entry 9). -/
def Memory.transferRead (m : Memory) : Except Fault (Word × Memory) :=
  match m.pending with
  | .read => .ok (m.word m.latchedAddr.toNat, { m with pending := .none })
  | .none => .error .protocol
  | .write => .error .protocol

/-- `TransferWrite(v)`: R67, and the protocol fault R68. -/
def Memory.transferWrite (m : Memory) (v : Word) : Except Fault Memory :=
  match m.pending with
  | .write => .ok { m.setWord m.latchedAddr.toNat v with pending := .none }
  | .none => .error .protocol
  | .read => .error .protocol

/-- `Peek(a)`: R70. -/
def Memory.peek (m : Memory) (a : Nat) : Except Fault Word :=
  if a < Config.memWords then .ok (m.word a) else .error (.range a)

/-- `Poke(a, v)` of a value that fits a word: R71. The host's value check of R72 is in `hostOp`. -/
def Memory.poke (m : Memory) (a : Nat) (v : Word) : Except Fault Memory :=
  if a < Config.memWords then .ok (m.setWord a v) else .error (.range a)

/-! ### The CPU's operations -/

/-- What a CPU operation comes to: a value and the state after it, or the `MemFault` that abandoned it and the state at
that point, earlier register writes standing (60_exceptions.md R264; log entry 6). -/
inductive Access (α : Type) where
  | ok (value : α) (s : State)
  | memFault (f : Fault) (s : State)
deriving DecidableEq, Repr

/-- One CPU operation after another; a `MemFault` ends the sequence (00_scope.md R11). -/
def Access.bind {α β : Type} (x : Access α) (next : α → State → Access β) : Access β :=
  match x with
  | .ok value s => next value s
  | .memFault f s => .memFault f s

/-- `MemRead(a, 1)`: MAR, latch, transfer into MBR (40_cpu_cycle.md R153; log entry 7). -/
def memRead (a : Addr) (s : State) : Access Word :=
  let s := { s with mar := a }
  match s.memory.latchRead s.mar.toNat with
  | .error f => .memFault f s
  | .ok latched =>
    let s := { s with memory := latched }
    match s.memory.transferRead with
    | .error f => .memFault f s
    | .ok (w, done) =>
      let s := { s with memory := done, mbr := w }
      .ok s.mbr s

/-- `MemWrite(a, 1, v)`: MAR, MBR, latch, transfer of MBR (40_cpu_cycle.md R154; log entry 7). -/
def memWrite (a : Addr) (v : Word) (s : State) : Access Unit :=
  let s := { s with mar := a, mbr := v }
  match s.memory.latchWrite s.mar.toNat with
  | .error f => .memFault f s
  | .ok latched =>
    let s := { s with memory := latched }
    match s.memory.transferWrite s.mbr with
    | .error f => .memFault f s
    | .ok done => .ok () { s with memory := done }

/-- `Fetch()`: `MAR <- PC`, latch, transfer into MBR, `IR <- MBR`, `PC <- (PC + 1) mod 4096` (40_cpu_cycle.md R151). The
first three are those of `memRead` at PC. -/
def fetch (s : State) : Access Word :=
  (memRead s.pc s).bind fun _ s =>
    let s := { s with ir := s.mbr }
    .ok s.ir { s with pc := s.pc + 1 }

/-! ### Raising a fault

The machine has no return from a fault (60_exceptions.md R269), so there is none here: only reset leaves HALTED. -/

/-- `raise IllegalOpcode`, in full: `MFR <- 0b0100; HALTED <- true`. Nothing is saved and nothing is vectored
(60_exceptions.md R262, R267). -/
def raiseIllegalOpcode (s : State) : State := { s with mfr := mfrIllegalOpcode, halted := true }

/-- `raise IllegalOperand`, in full: `MFR <- MFR_ILLEGAL_OPERAND; HALTED <- true` (60_exceptions.md R263). -/
def raiseIllegalOperand (s : State) : State := { s with mfr := mfrIllegalOperand, halted := true }

/-- The sticky mark of a `MemFault` raised inside a CPU operation (60_exceptions.md R264; log entries 6 and 20). Nothing
else changes: in particular not MFR and not HALTED. -/
def recordMemFault (f : Fault) (s : State) : State := { s with memFault := s.memFault.or (some f) }

/-- The end of an execute phase or of a fetch that ends the step: the machine goes on, with the mark where a `MemFault`
abandoned the operation. -/
def settle : Access Unit → Host.Outcome State Fault Refusal
  | .ok _ s => .next s
  | .memFault f s => .next (recordMemFault f s)

/-- The execute phase of every opcode outside the executed subset (42_halt_and_unsupported.md R201). -/
def illegalOpcode (s : State) : Host.Outcome State Fault Refusal := .next (raiseIllegalOpcode s)

end Sys2Proof.Machine
end

