-- ==== Sys2Proof/Machine/Arithmetic.lean ====
section
/-! DEFINITION. The execute phases of the arithmetic mnemonics AMR, SMR, AIR, SIR, MLT and DVD, none of which this CPU executes
(42_halt_and_unsupported.md R201 and the rule of each). -/

namespace Sys2Proof.Machine

/-- R207: AMR is an illegal opcode on this CPU; no memory word is read and nothing is added. -/
def execAmr (_r : Gpr) (_ix : Option Ixr) (_ind : Bool) (_addr : BitVec 5) (s : State) : Host.Outcome State Fault Refusal := illegalOpcode s

/-- R208: SMR is an illegal opcode on this CPU. -/
def execSmr (_r : Gpr) (_ix : Option Ixr) (_ind : Bool) (_addr : BitVec 5) (s : State) : Host.Outcome State Fault Refusal := illegalOpcode s

/-- R202: AIR is an illegal opcode on this CPU; nothing is added. -/
def execAir (_r : Gpr) (_imm : BitVec 5) (s : State) : Host.Outcome State Fault Refusal := illegalOpcode s

/-- R203: SIR is an illegal opcode on this CPU; nothing is subtracted. -/
def execSir (_r : Gpr) (_imm : BitVec 5) (s : State) : Host.Outcome State Fault Refusal := illegalOpcode s

/-- R205: MLT is an illegal opcode on this CPU; nothing is multiplied. -/
def execMlt (_rx _ry : Gpr) (s : State) : Host.Outcome State Fault Refusal := illegalOpcode s

/-- R214: DVD is an illegal opcode on this CPU; nothing is divided. -/
def execDvd (_rx _ry : Gpr) (s : State) : Host.Outcome State Fault Refusal := illegalOpcode s

end Sys2Proof.Machine
end

