-- ==== Sys2Proof/Machine/InputOutput.lean ====
section
/-! DEFINITION. The execute phases of the mnemonics IN, OUT and CHK, none of which this CPU executes
(42_halt_and_unsupported.md R201 and the rule of each). -/

namespace Sys2Proof.Machine

/-- R221: IN is an illegal opcode on this CPU; no device is read. -/
def execInp (_r : Gpr) (_devid : BitVec 5) (s : State) : Host.Outcome State Fault Refusal := illegalOpcode s

/-- R222: OUT is an illegal opcode on this CPU; nothing is sent to any device. -/
def execOut (_r : Gpr) (_devid : BitVec 5) (s : State) : Host.Outcome State Fault Refusal := illegalOpcode s

/-- R223: CHK is an illegal opcode on this CPU. -/
def execChk (_r : Gpr) (_devid : BitVec 5) (s : State) : Host.Outcome State Fault Refusal := illegalOpcode s

end Sys2Proof.Machine
end

