-- ==== Sys2Proof/Machine/Jump.lean ====
section
/-! DEFINITION. The execute phases of the mnemonics JZ, JNE, JCC, RFS, SOB and JGE, none of which this CPU executes
(42_halt_and_unsupported.md R201 and the rule of each). -/

namespace Sys2Proof.Machine

/-- R204: JZ is an illegal opcode on this CPU; no register is tested. -/
def execJz (_r : Gpr) (_ix : Option Ixr) (_ind : Bool) (_addr : BitVec 5) (s : State) : Host.Outcome State Fault Refusal := illegalOpcode s

/-- R209: JNE is an illegal opcode on this CPU. -/
def execJne (_r : Gpr) (_ix : Option Ixr) (_ind : Bool) (_addr : BitVec 5) (s : State) : Host.Outcome State Fault Refusal := illegalOpcode s

/-- R210: JCC is an illegal opcode on this CPU; CC is not read. -/
def execJcc (_cc : BitVec 2) (_ix : Option Ixr) (_ind : Bool) (_addr : BitVec 5) (s : State) : Host.Outcome State Fault Refusal := illegalOpcode s

/-- R211: RFS is an illegal opcode on this CPU; there is no return. -/
def execRfs (_imm : BitVec 5) (s : State) : Host.Outcome State Fault Refusal := illegalOpcode s

/-- R212: SOB is an illegal opcode on this CPU; no register is decremented. -/
def execSob (_r : Gpr) (_ix : Option Ixr) (_ind : Bool) (_addr : BitVec 5) (s : State) : Host.Outcome State Fault Refusal := illegalOpcode s

/-- R213: JGE is an illegal opcode on this CPU. -/
def execJge (_r : Gpr) (_ix : Option Ixr) (_ind : Bool) (_addr : BitVec 5) (s : State) : Host.Outcome State Fault Refusal := illegalOpcode s

end Sys2Proof.Machine
end

