-- ==== Sys2Proof/Machine/Operands.lean ====
section
/-! DEFINITION. The operand forms: the general and index registers, and the effective addresses. -/

namespace Sys2Proof.Machine

/-- The value of a general register (10_state.md R32). -/
def State.gpr (s : State) : Gpr → Word
  | .r0 => s.gpr0
  | .r1 => s.gpr1
  | .r2 => s.gpr2
  | .r3 => s.gpr3

/-- `GPR[r] <- v`. -/
def State.setGpr (s : State) (r : Gpr) (v : Word) : State :=
  match r with
  | .r0 => { s with gpr0 := v }
  | .r1 => { s with gpr1 := v }
  | .r2 => { s with gpr2 := v }
  | .r3 => { s with gpr3 := v }

/-- The value of an index register (10_state.md R34). -/
def State.ixr (s : State) : Ixr → Word
  | .x1 => s.ixr1
  | .x2 => s.ixr2
  | .x3 => s.ixr3

/-- `IXR[x] <- v`. -/
def State.setIxr (s : State) (x : Ixr) (v : Word) : State :=
  match x with
  | .x1 => { s with ixr1 := v }
  | .x2 => { s with ixr2 := v }
  | .x3 => { s with ixr3 := v }

/-- The address before indirection: the address field, plus the index register modulo 4096 where the IX field names one
(40_cpu_cycle.md R155). -/
def indexedAddress (ix : Option Ixr) (addr : BitVec 5) (s : State) : Addr :=
  match ix with
  | none => BitVec.ofNat 12 addr.toNat
  | some x => BitVec.ofNat 12 (addr.toNat + (s.ixr x).toNat)

/-- `w[11:0]` of a pointer word (40_cpu_cycle.md R155). -/
def pointerAddress (w : Word) : Addr := BitVec.ofNat 12 w.toNat

/-- One level of indirection through the address `e`, where the indirect bit is set. -/
def indirect (ind : Bool) (e : Addr) (s : State) : Access Addr :=
  if ind then (memRead e s).bind fun w s => .ok (pointerAddress w) s else .ok e s

/-- `EA_indexed(ix, i, addr)` (40_cpu_cycle.md R155). -/
def eaIndexed (ix : Option Ixr) (ind : Bool) (addr : BitVec 5) (s : State) : Access Addr :=
  indirect ind (indexedAddress ix addr s) s

/-- `EA_unindexed(i, addr)` (40_cpu_cycle.md R156). -/
def eaUnindexed (ind : Bool) (addr : BitVec 5) (s : State) : Access Addr :=
  indirect ind (BitVec.ofNat 12 addr.toNat) s

/-- The value `EA_indexed` returns, as a function of the state alone: what it comes to where its one possible read does
not fault. Statements use it; the meanings call `eaIndexed`. -/
def finalAddress (ix : Option Ixr) (ind : Bool) (addr : BitVec 5) (s : State) : Addr :=
  if ind then pointerAddress (s.memory.word (indexedAddress ix addr s).toNat) else indexedAddress ix addr s

end Sys2Proof.Machine
end

