-- ==== Sys2Proof/Machine/LoadStore.lean ====
section
/-! DEFINITION. The execute phases of LDR, STR, LDA, LDX and STX (41_load_store.md). -/

namespace Sys2Proof.Machine

/-- R180: `e <- EA_indexed(ix, i, addr); GPR[r] <- MemRead(e, 1)`. -/
def execLdr (r : Gpr) (ix : Option Ixr) (ind : Bool) (addr : BitVec 5) (s : State) : Host.Outcome State Fault Refusal :=
  settle <| (eaIndexed ix ind addr s).bind fun e s => (memRead e s).bind fun w s => .ok () (s.setGpr r w)

/-- R181: `e <- EA_indexed(ix, i, addr); MemWrite(e, 1, GPR[r])`. -/
def execStr (r : Gpr) (ix : Option Ixr) (ind : Bool) (addr : BitVec 5) (s : State) : Host.Outcome State Fault Refusal :=
  settle <| (eaIndexed ix ind addr s).bind fun e s => memWrite e (s.gpr r) s

/-- R182: `e <- EA_indexed(ix, i, addr); GPR[r] <- zext_16(e)`. -/
def execLda (r : Gpr) (ix : Option Ixr) (ind : Bool) (addr : BitVec 5) (s : State) : Host.Outcome State Fault Refusal :=
  settle <| (eaIndexed ix ind addr s).bind fun e s => .ok () (s.setGpr r (BitVec.ofNat 16 e.toNat))

/-- R183: `if ix = 0: raise IllegalOperand; e <- EA_unindexed(i, addr); IXR[ix] <- MemRead(e, 1)`. The check comes first
(40_cpu_cycle.md R159; log entry 12). -/
def execLdx (ix : Option Ixr) (ind : Bool) (addr : BitVec 5) (s : State) : Host.Outcome State Fault Refusal :=
  match ix with
  | none => .next (raiseIllegalOperand s)
  | some x =>
    settle <| (eaUnindexed ind addr s).bind fun e s => (memRead e s).bind fun w s => .ok () (s.setIxr x w)

/-- R184: `if ix = 0: raise IllegalOperand; e <- EA_unindexed(i, addr); MemWrite(e, 1, IXR[ix])`. -/
def execStx (ix : Option Ixr) (ind : Bool) (addr : BitVec 5) (s : State) : Host.Outcome State Fault Refusal :=
  match ix with
  | none => .next (raiseIllegalOperand s)
  | some x => settle <| (eaUnindexed ind addr s).bind fun e s => memWrite e (s.ixr x) s

end Sys2Proof.Machine
end

