-- ==== Sys2Proof/Machine/Logic.lean ====
section
/-! DEFINITION. The execute phases of the mnemonics TRR, AND, ORR, NOT, SRC and RRC, none of which this CPU executes
(42_halt_and_unsupported.md R201 and the rule of each). -/

namespace Sys2Proof.Machine

/-- R215: TRR is an illegal opcode on this CPU; nothing is compared and CC is not written. -/
def execTrr (_rx _ry : Gpr) (s : State) : Host.Outcome State Fault Refusal := illegalOpcode s

/-- R216: AND is an illegal opcode on this CPU. -/
def execAndr (_rx _ry : Gpr) (s : State) : Host.Outcome State Fault Refusal := illegalOpcode s

/-- R217: ORR is an illegal opcode on this CPU. -/
def execOrr (_rx _ry : Gpr) (s : State) : Host.Outcome State Fault Refusal := illegalOpcode s

/-- R218: NOT is an illegal opcode on this CPU. -/
def execNotr (_rx : Gpr) (s : State) : Host.Outcome State Fault Refusal := illegalOpcode s

/-- R219: SRC is an illegal opcode on this CPU; nothing is shifted. -/
def execSrc (_r : Gpr) (_count : BitVec 4) (_lr _al : BitVec 1) (s : State) : Host.Outcome State Fault Refusal := illegalOpcode s

/-- R220: RRC is an illegal opcode on this CPU. -/
def execRrc (_r : Gpr) (_count : BitVec 4) (_lr _al : BitVec 1) (s : State) : Host.Outcome State Fault Refusal := illegalOpcode s

end Sys2Proof.Machine
end

