-- ==== Sys2Proof/Machine/System.lean ====
section
/-! DEFINITION. The execute phases of HLT and of TRAP (42_halt_and_unsupported.md R200, R206). -/

namespace Sys2Proof.Machine

/-- R200: `HALTED <- true`, and nothing else; MFR keeps its value. -/
def execHlt (s : State) : Host.Outcome State Fault Refusal := .next { s with halted := true }

/-- R206: TRAP is an illegal opcode on this CPU; there is no trap table, no saved PC and no transfer of control. -/
def execTrap (s : State) : Host.Outcome State Fault Refusal := illegalOpcode s

end Sys2Proof.Machine
end

