-- ==== Sys2Proof/Machine/Unassigned.lean ====
section
/-! DEFINITION. The execute phases of the 36 opcode values with no mnemonic (42_halt_and_unsupported.md R224): each is the
illegal-opcode execute phase of R201. -/

namespace Sys2Proof.Machine

/-- R224: opcode 0o13 has no mnemonic. -/
def execUnassigned0o13 (s : State) : Host.Outcome State Fault Refusal := illegalOpcode s

/-- R224: opcode 0o14 has no mnemonic. -/
def execUnassigned0o14 (s : State) : Host.Outcome State Fault Refusal := illegalOpcode s

/-- R224: opcode 0o20 has no mnemonic. -/
def execUnassigned0o20 (s : State) : Host.Outcome State Fault Refusal := illegalOpcode s

/-- R224: opcode 0o21 has no mnemonic. -/
def execUnassigned0o21 (s : State) : Host.Outcome State Fault Refusal := illegalOpcode s

/-- R224: opcode 0o22 has no mnemonic. -/
def execUnassigned0o22 (s : State) : Host.Outcome State Fault Refusal := illegalOpcode s

/-- R224: opcode 0o23 has no mnemonic. -/
def execUnassigned0o23 (s : State) : Host.Outcome State Fault Refusal := illegalOpcode s

/-- R224: opcode 0o24 has no mnemonic. -/
def execUnassigned0o24 (s : State) : Host.Outcome State Fault Refusal := illegalOpcode s

/-- R224: opcode 0o25 has no mnemonic. -/
def execUnassigned0o25 (s : State) : Host.Outcome State Fault Refusal := illegalOpcode s

/-- R224: opcode 0o26 has no mnemonic. -/
def execUnassigned0o26 (s : State) : Host.Outcome State Fault Refusal := illegalOpcode s

/-- R224: opcode 0o27 has no mnemonic. -/
def execUnassigned0o27 (s : State) : Host.Outcome State Fault Refusal := illegalOpcode s

/-- R224: opcode 0o33 has no mnemonic. -/
def execUnassigned0o33 (s : State) : Host.Outcome State Fault Refusal := illegalOpcode s

/-- R224: opcode 0o34 has no mnemonic. -/
def execUnassigned0o34 (s : State) : Host.Outcome State Fault Refusal := illegalOpcode s

/-- R224: opcode 0o35 has no mnemonic. -/
def execUnassigned0o35 (s : State) : Host.Outcome State Fault Refusal := illegalOpcode s

/-- R224: opcode 0o36 has no mnemonic. -/
def execUnassigned0o36 (s : State) : Host.Outcome State Fault Refusal := illegalOpcode s

/-- R224: opcode 0o37 has no mnemonic. -/
def execUnassigned0o37 (s : State) : Host.Outcome State Fault Refusal := illegalOpcode s

/-- R224: opcode 0o40 has no mnemonic. -/
def execUnassigned0o40 (s : State) : Host.Outcome State Fault Refusal := illegalOpcode s

/-- R224: opcode 0o43 has no mnemonic. -/
def execUnassigned0o43 (s : State) : Host.Outcome State Fault Refusal := illegalOpcode s

/-- R224: opcode 0o44 has no mnemonic. -/
def execUnassigned0o44 (s : State) : Host.Outcome State Fault Refusal := illegalOpcode s

/-- R224: opcode 0o45 has no mnemonic. -/
def execUnassigned0o45 (s : State) : Host.Outcome State Fault Refusal := illegalOpcode s

/-- R224: opcode 0o46 has no mnemonic. -/
def execUnassigned0o46 (s : State) : Host.Outcome State Fault Refusal := illegalOpcode s

/-- R224: opcode 0o47 has no mnemonic. -/
def execUnassigned0o47 (s : State) : Host.Outcome State Fault Refusal := illegalOpcode s

/-- R224: opcode 0o50 has no mnemonic. -/
def execUnassigned0o50 (s : State) : Host.Outcome State Fault Refusal := illegalOpcode s

/-- R224: opcode 0o51 has no mnemonic. -/
def execUnassigned0o51 (s : State) : Host.Outcome State Fault Refusal := illegalOpcode s

/-- R224: opcode 0o52 has no mnemonic. -/
def execUnassigned0o52 (s : State) : Host.Outcome State Fault Refusal := illegalOpcode s

/-- R224: opcode 0o53 has no mnemonic. -/
def execUnassigned0o53 (s : State) : Host.Outcome State Fault Refusal := illegalOpcode s

/-- R224: opcode 0o54 has no mnemonic. -/
def execUnassigned0o54 (s : State) : Host.Outcome State Fault Refusal := illegalOpcode s

/-- R224: opcode 0o55 has no mnemonic. -/
def execUnassigned0o55 (s : State) : Host.Outcome State Fault Refusal := illegalOpcode s

/-- R224: opcode 0o56 has no mnemonic. -/
def execUnassigned0o56 (s : State) : Host.Outcome State Fault Refusal := illegalOpcode s

/-- R224: opcode 0o57 has no mnemonic. -/
def execUnassigned0o57 (s : State) : Host.Outcome State Fault Refusal := illegalOpcode s

/-- R224: opcode 0o60 has no mnemonic. -/
def execUnassigned0o60 (s : State) : Host.Outcome State Fault Refusal := illegalOpcode s

/-- R224: opcode 0o64 has no mnemonic. -/
def execUnassigned0o64 (s : State) : Host.Outcome State Fault Refusal := illegalOpcode s

/-- R224: opcode 0o65 has no mnemonic. -/
def execUnassigned0o65 (s : State) : Host.Outcome State Fault Refusal := illegalOpcode s

/-- R224: opcode 0o66 has no mnemonic. -/
def execUnassigned0o66 (s : State) : Host.Outcome State Fault Refusal := illegalOpcode s

/-- R224: opcode 0o67 has no mnemonic. -/
def execUnassigned0o67 (s : State) : Host.Outcome State Fault Refusal := illegalOpcode s

/-- R224: opcode 0o76 has no mnemonic. -/
def execUnassigned0o76 (s : State) : Host.Outcome State Fault Refusal := illegalOpcode s

/-- R224: opcode 0o77 has no mnemonic. -/
def execUnassigned0o77 (s : State) : Host.Outcome State Fault Refusal := illegalOpcode s

end Sys2Proof.Machine
end

