-- ==== Sys2Proof/Machine/Dispatch.lean ====
section
/-! DEFINITION. The execute phase of every instruction (40_cpu_cycle.md R158). -/

namespace Sys2Proof.Machine

def exec (i : Instr) (s : State) : Host.Outcome State Fault Refusal :=
  match i with
  | .hlt => Sys2Proof.Machine.execHlt s
  | .ldr r ix ind addr => Sys2Proof.Machine.execLdr r ix ind addr s
  | .str r ix ind addr => Sys2Proof.Machine.execStr r ix ind addr s
  | .lda r ix ind addr => Sys2Proof.Machine.execLda r ix ind addr s
  | .amr r ix ind addr => Sys2Proof.Machine.execAmr r ix ind addr s
  | .smr r ix ind addr => Sys2Proof.Machine.execSmr r ix ind addr s
  | .air r imm => Sys2Proof.Machine.execAir r imm s
  | .sir r imm => Sys2Proof.Machine.execSir r imm s
  | .jz r ix ind addr => Sys2Proof.Machine.execJz r ix ind addr s
  | .jne r ix ind addr => Sys2Proof.Machine.execJne r ix ind addr s
  | .jcc cc ix ind addr => Sys2Proof.Machine.execJcc cc ix ind addr s
  | .unassigned_0o13 => Sys2Proof.Machine.execUnassigned0o13 s
  | .unassigned_0o14 => Sys2Proof.Machine.execUnassigned0o14 s
  | .rfs imm => Sys2Proof.Machine.execRfs imm s
  | .sob r ix ind addr => Sys2Proof.Machine.execSob r ix ind addr s
  | .jge r ix ind addr => Sys2Proof.Machine.execJge r ix ind addr s
  | .unassigned_0o20 => Sys2Proof.Machine.execUnassigned0o20 s
  | .unassigned_0o21 => Sys2Proof.Machine.execUnassigned0o21 s
  | .unassigned_0o22 => Sys2Proof.Machine.execUnassigned0o22 s
  | .unassigned_0o23 => Sys2Proof.Machine.execUnassigned0o23 s
  | .unassigned_0o24 => Sys2Proof.Machine.execUnassigned0o24 s
  | .unassigned_0o25 => Sys2Proof.Machine.execUnassigned0o25 s
  | .unassigned_0o26 => Sys2Proof.Machine.execUnassigned0o26 s
  | .unassigned_0o27 => Sys2Proof.Machine.execUnassigned0o27 s
  | .trap => Sys2Proof.Machine.execTrap s
  | .src r count lr al => Sys2Proof.Machine.execSrc r count lr al s
  | .rrc r count lr al => Sys2Proof.Machine.execRrc r count lr al s
  | .unassigned_0o33 => Sys2Proof.Machine.execUnassigned0o33 s
  | .unassigned_0o34 => Sys2Proof.Machine.execUnassigned0o34 s
  | .unassigned_0o35 => Sys2Proof.Machine.execUnassigned0o35 s
  | .unassigned_0o36 => Sys2Proof.Machine.execUnassigned0o36 s
  | .unassigned_0o37 => Sys2Proof.Machine.execUnassigned0o37 s
  | .unassigned_0o40 => Sys2Proof.Machine.execUnassigned0o40 s
  | .ldx ix ind addr => Sys2Proof.Machine.execLdx ix ind addr s
  | .stx ix ind addr => Sys2Proof.Machine.execStx ix ind addr s
  | .unassigned_0o43 => Sys2Proof.Machine.execUnassigned0o43 s
  | .unassigned_0o44 => Sys2Proof.Machine.execUnassigned0o44 s
  | .unassigned_0o45 => Sys2Proof.Machine.execUnassigned0o45 s
  | .unassigned_0o46 => Sys2Proof.Machine.execUnassigned0o46 s
  | .unassigned_0o47 => Sys2Proof.Machine.execUnassigned0o47 s
  | .unassigned_0o50 => Sys2Proof.Machine.execUnassigned0o50 s
  | .unassigned_0o51 => Sys2Proof.Machine.execUnassigned0o51 s
  | .unassigned_0o52 => Sys2Proof.Machine.execUnassigned0o52 s
  | .unassigned_0o53 => Sys2Proof.Machine.execUnassigned0o53 s
  | .unassigned_0o54 => Sys2Proof.Machine.execUnassigned0o54 s
  | .unassigned_0o55 => Sys2Proof.Machine.execUnassigned0o55 s
  | .unassigned_0o56 => Sys2Proof.Machine.execUnassigned0o56 s
  | .unassigned_0o57 => Sys2Proof.Machine.execUnassigned0o57 s
  | .unassigned_0o60 => Sys2Proof.Machine.execUnassigned0o60 s
  | .inp r devid => Sys2Proof.Machine.execInp r devid s
  | .out r devid => Sys2Proof.Machine.execOut r devid s
  | .chk r devid => Sys2Proof.Machine.execChk r devid s
  | .unassigned_0o64 => Sys2Proof.Machine.execUnassigned0o64 s
  | .unassigned_0o65 => Sys2Proof.Machine.execUnassigned0o65 s
  | .unassigned_0o66 => Sys2Proof.Machine.execUnassigned0o66 s
  | .unassigned_0o67 => Sys2Proof.Machine.execUnassigned0o67 s
  | .mlt rx ry => Sys2Proof.Machine.execMlt rx ry s
  | .dvd rx ry => Sys2Proof.Machine.execDvd rx ry s
  | .trr rx ry => Sys2Proof.Machine.execTrr rx ry s
  | .andr rx ry => Sys2Proof.Machine.execAndr rx ry s
  | .orr rx ry => Sys2Proof.Machine.execOrr rx ry s
  | .notr rx => Sys2Proof.Machine.execNotr rx s
  | .unassigned_0o76 => Sys2Proof.Machine.execUnassigned0o76 s
  | .unassigned_0o77 => Sys2Proof.Machine.execUnassigned0o77 s

end Sys2Proof.Machine
end

