-- ==== Sys2Proof/Machine/Step.lean ====
section
/-! DEFINITION. One step of the CPU (40_cpu_cycle.md R150), and the placing of a word where the next step fetches. -/

namespace Sys2Proof.Machine

/-- `Step()`: nothing while HALTED (R160; log entry 10); else fetch, decode IR and execute. A range fault of the fetch ends
the step with MAR written and nothing else (R151; log entry 6). -/
def step (s : State) : Host.Outcome State Fault Refusal :=
  if s.halted then .next s
  else
    match fetch s with
    | .memFault f s => settle (.memFault f s)
    | .ok w s => exec (decode w) s

/-- The state with a word stored where the next step fetches it. A program comes to run by being poked into memory
(70_reset_and_hazards.md R294; log entry 16). A halted machine is set RUNNING and a PC outside the memory is set to 0,
because the fetch needs both; after reset neither changes anything. -/
def State.withFetchWord (s : State) (nbits w : Nat) : State :=
  let at_ : Addr := if s.pc.toNat < Config.memWords then s.pc else 0
  { s with
    pc := at_
    halted := false
    memory := s.memory.setWord at_.toNat (BitVec.ofNat 16 (w % 2 ^ nbits)) }

end Sys2Proof.Machine
end

