-- ==== Sys2Proof/Machine/Boundary.lean ====
section
/-! DEFINITION. The operations the CORE offers to the host (43_boundary_operations.md R240 to R254): requests, replies and
what each does to the state. The host acts only between CPU operations (log entry 17), so each is one function of the
state. Apart from a step and a run, none of them looks at HALTED (R240). -/

namespace Sys2Proof.Machine

/-! ### The outcome of a step (00_scope.md R12, 40_cpu_cycle.md R150; log entry 19) -/

/-- The causes of a halt inside a step. -/
inductive HaltCause where
  | hlt
  | illegalOpcode
  | illegalOperand
deriving DecidableEq, Repr

/-- What a step reports. -/
inductive StepOutcome where
  /-- An instruction completed. -/
  | stepped (m : Mnemonic)
  /-- The instruction halted the machine. -/
  | haltedBy (c : HaltCause)
  /-- The machine was halted before the step; nothing changed. -/
  | alreadyHalted
  /-- The step was abandoned part-way. -/
  | memFault (f : Fault)
  /-- The step gave no next state; no step of this model does. -/
  | refused (r : Refusal)
deriving DecidableEq, Repr

/-- The cause, given that the instruction halted the machine: HLT; LDX or STX with IX = 0; any other opcode is outside the
executed subset (60_exceptions.md R262, R263). -/
def haltCause (i : Instr) : HaltCause :=
  match i with
  | .hlt => .hlt
  | .ldx _ _ _ => .illegalOperand
  | .stx _ _ _ => .illegalOperand
  | _ => .illegalOpcode

/-- The outcome of a step that started RUNNING with no mark set and ended in `t`: IR holds the word it executed. -/
def outcomeOf (t : State) : StepOutcome :=
  match t.memFault with
  | some f => .memFault f
  | none =>
    match t.halted, (decode t.ir).mnemonic with
    | false, some m => .stepped m
    | _, _ => .haltedBy (haltCause (decode t.ir))

/-- The outcome of the step from `s`, told from a step with the mark clear (the mark has no influence on the rest of the
state). -/
def stepOutcome (s : State) : StepOutcome :=
  if s.halted then .alreadyHalted
  else
    match step { s with memFault := none } with
    | .next t => outcomeOf t
    | .fault f => .memFault f
    | .refused r => .refused r

/-- `execute-one-step` (R246): the outcome and the state after. -/
def executeOneStep (s : State) : StepOutcome × State :=
  match step s with
  | .next t => (stepOutcome s, t)
  | .fault f => (.memFault f, s)
  | .refused r => (.refused r, s)

/-! ### Run (40_cpu_cycle.md R161) -/

/-- What a run reports. -/
inductive RunOutcome where
  | halted
  | ceilingReached
  | memFault (f : Fault)
deriving DecidableEq, Repr

/-- The parameter `RUN_CEILING`, at least 1 (00_scope.md R6; log entry 2). The model takes it as an argument. -/
abbrev RunCeiling := { n : Nat // 1 ≤ n }

/-- The loop of `Run()` with so many steps left before the ceiling: HALTED is tested before the ceiling, and the first
`MemFault` ends the run (log entry 18). -/
def runSteps : Nat → State → RunOutcome × State
  | 0, s => if s.halted then (.halted, s) else (.ceilingReached, s)
  | n + 1, s =>
    if s.halted then (.halted, s)
    else
      match executeOneStep s with
      | (.memFault f, t) => (.memFault f, t)
      | (_, t) => runSteps n t

/-- `Run()` under a ceiling (R161). -/
def run (ceiling : RunCeiling) (s : State) : RunOutcome × State := runSteps ceiling.val s

/-! ### Register snapshots and debug writes (R252, R253) -/

/-- The registers the host can read and write; there is no `IXR[0]`, and HALTED is no register. -/
inductive RegName where
  | gpr (r : Gpr)
  | ixr (x : Ixr)
  | pc
  | mar
  | mbr
  | ir
  | cc
  | mfr
deriving DecidableEq, Repr

/-- The width of a register (00_scope.md R5). -/
def RegName.width : RegName → Nat
  | .gpr _ => 16
  | .ixr _ => 16
  | .pc => 12
  | .mar => 12
  | .mbr => 16
  | .ir => 16
  | .cc => 4
  | .mfr => 4

/-- The conditions that hold, told from CC by the parameter `CC_BIT_MEANING`, a map from the four bit numbers to conditions
(00_scope.md R6; 10_state.md R38; log entry 5). What a condition is, is open: any type of conditions will do. No
instruction and no request uses this. -/
def State.conditions {Condition : Type} (ccBitMeaning : Fin 4 → Condition) (s : State) : List Condition :=
  (([0, 1, 2, 3] : List (Fin 4)).filter fun bit => s.cc.getLsbD bit.val).map ccBitMeaning

/-- A register snapshot (R252). -/
def State.reg (s : State) : RegName → Nat
  | .gpr r => (s.gpr r).toNat
  | .ixr x => (s.ixr x).toNat
  | .pc => s.pc.toNat
  | .mar => s.mar.toNat
  | .mbr => s.mbr.toNat
  | .ir => s.ir.toNat
  | .cc => s.cc.toNat
  | .mfr => s.mfr.toNat

/-- `SetReg(X, v)`: the value is masked to the register's width (00_scope.md R9). -/
def State.setReg (s : State) (x : RegName) (v : Int) : State :=
  match x with
  | .gpr r => s.setGpr r (BitVec.ofInt 16 v)
  | .ixr x => s.setIxr x (BitVec.ofInt 16 v)
  | .pc => { s with pc := BitVec.ofInt 12 v }
  | .mar => { s with mar := BitVec.ofInt 12 v }
  | .mbr => { s with mbr := BitVec.ofInt 16 v }
  | .ir => { s with ir := BitVec.ofInt 16 v }
  | .cc => { s with cc := BitVec.ofInt 4 v }
  | .mfr => { s with mfr := BitVec.ofInt 4 v }

/-! ### Requests, replies and their meaning -/

/-- The host's requests: 43_boundary_operations.md R241 to R254. Arguments the host can give out of range are integers. -/
inductive HostOp where
  | resetAll
  | fetchOneWord
  | readWord (address : Int)
  | writeWord (address value : Int)
  | computeEffectiveAddress (index indirectBit addressField : Int)
  | executeOneStep
  | runUntilHaltedOrCeiling (ceiling : RunCeiling)
  | halt
  | isHalted
  | peek (address : Int)
  | poke (address value : Int)
  | snapshot (x : RegName)
  | setReg (x : RegName) (value : Int)
  | latchRead (address : Int)
  | latchWrite (address : Int)
  | transferRead
  | transferWrite (value : Word)
deriving DecidableEq, Repr

/-- The replies: `ok`, with a value where the operation has one, or the `MemFault`. -/
inductive Reply where
  | ok
  | word (w : Word)
  | address (a : Addr)
  | flag (b : Bool)
  | register (n : Nat)
  | stepped (o : StepOutcome)
  | ran (o : RunOutcome)
  | memFault (f : Fault)
deriving DecidableEq, Repr

/-- The arguments that are not in `0 .. size - 1`, each argument given with its size. -/
def outOfRange (args : List (Int × Nat)) : List Int :=
  (args.filter fun p => !(decide (0 ≤ p.1) && decide (p.1 < (p.2 : Int)))).map (·.1)

/-- The range fault of an operation some of whose arguments are out of range: it names one of them, and where there are
several the spec does not say which (log entry 26). -/
def argumentFault : List Int → Option Fault
  | [] => none
  | [a] => some (.range a)
  | a :: b :: rest => some (.range ((a :: b :: rest).getD (Config.reportedArgument (a :: b :: rest)) a))

/-- An operation that validates its arguments first and changes nothing where one is out of range (20_memory.md R72). -/
def validated (args : List (Int × Nat)) (s : State) (run : Reply × State) : Reply × State :=
  match argumentFault (outOfRange args) with
  | some f => (.memFault f, s)
  | none => run

/-- The reply to a CPU operation; its `MemFault` is recorded as any other of the CPU's (60_exceptions.md R264). -/
def Access.reply {α : Type} (f : α → Reply) : Access α → Reply × State
  | .ok value s => (f value, s)
  | .memFault e s => (.memFault e, recordMemFault e s)

/-- The reply to a raw operation of the Memory that returns no word. -/
def memoryReply (s : State) : Except Fault Memory → Reply × State
  | .ok m => (.ok, { s with memory := m })
  | .error f => (.memFault f, s)

/-- What each request does. -/
def hostOp (op : HostOp) (s : State) : Reply × State :=
  match op with
  | .resetAll => (.ok, State.reset)
  | .fetchOneWord => (fetch s).reply .word
  | .readWord a => validated [(a, 4096)] s ((memRead (BitVec.ofInt 12 a) s).reply .word)
  | .writeWord a v =>
    validated [(a, 4096), (v, 65536)] s ((memWrite (BitVec.ofInt 12 a) (BitVec.ofInt 16 v) s).reply fun _ => .ok)
  | .computeEffectiveAddress ix ind addr =>
    validated [(ix, 4), (ind, 2), (addr, 32)] s
      ((eaIndexed (ixOfField (BitVec.ofInt 2 ix)) (indirectOfField (BitVec.ofInt 1 ind)) (BitVec.ofInt 5 addr) s).reply
        .address)
  | .executeOneStep =>
    match executeOneStep s with
    | (o, t) => (.stepped o, t)
  | .runUntilHaltedOrCeiling ceiling =>
    match run ceiling s with
    | (o, t) => (.ran o, t)
  | .halt => (.ok, { s with halted := true })
  | .isHalted => (.flag s.halted, s)
  | .peek a =>
    match a with
    | .ofNat k =>
      match s.memory.peek k with
      | .ok w => (.word w, s)
      | .error f => (.memFault f, s)
    | .negSucc _ => (.memFault (.range a), s)
  | .poke a v => validated [(a, 2048), (v, 65536)] s (memoryReply s (s.memory.poke a.toNat (BitVec.ofInt 16 v)))
  | .snapshot x => (.register (s.reg x), s)
  | .setReg x v => (.ok, s.setReg x v)
  | .latchRead a =>
    match a with
    | .ofNat k => memoryReply s (s.memory.latchRead k)
    | .negSucc _ => (.memFault (.range a), s)
  | .latchWrite a =>
    match a with
    | .ofNat k => memoryReply s (s.memory.latchWrite k)
    | .negSucc _ => (.memFault (.range a), s)
  | .transferRead =>
    match s.memory.transferRead with
    | .ok (w, m) => (.word w, { s with memory := m })
    | .error f => (.memFault f, s)
  | .transferWrite v => memoryReply s (s.memory.transferWrite v)

/-- The host's requests one after another, the replies dropped: what a host does between CPU operations. Loading a
program is a list of pokes (70_reset_and_hazards.md R294). -/
def hostOps : List HostOp → State → State
  | [], s => s
  | op :: ops, s => hostOps ops (hostOp op s).2

end Sys2Proof.Machine
end

