-- ==== Sys2Proof/Safety.lean ====
section
/-! DEFINITION. What claims call a safe state: the invariant of a machine driven by steps, and the ends of a run. -/

namespace Sys2Proof.Machine

/-- The invariant of a machine driven by steps: the memory keeps its canonical form; nothing is pending between steps
(40_cpu_cycle.md R164); MFR holds 0 or one of the two codes the CPU writes (10_state.md R42, 60_exceptions.md R261); and a
non-zero MFR means HALTED (60_exceptions.md R270). -/
def State.Inv (s : State) : Prop :=
  s.memory.wf = true ∧ s.memory.pending = .none ∧
    (s.mfr = 0 ∨ s.mfr = mfrIllegalOpcode ∨ s.mfr = mfrIllegalOperand) ∧ (s.mfr ≠ 0 → s.halted = true)

/-- No `MemFault` has been recorded: the premise that 60_exceptions.md R264 asks of every claim about a final state. -/
def State.unfaulted (s : State) : Bool := s.memFault.isNone

/-- The clean end of a run: HALTED, MFR 0, no `MemFault` (70_reset_and_hazards.md R296). -/
def State.cleanEnd (s : State) : Bool := s.halted && s.mfr == 0 && s.unfaulted

/-- The instructions whose opcode is outside the executed subset (30_encoding.md R111). -/
def illegalInstr : Instr → Bool
  | .hlt => false
  | .ldr _ _ _ _ => false
  | .str _ _ _ _ => false
  | .lda _ _ _ _ => false
  | .ldx _ _ _ => false
  | .stx _ _ _ => false
  | _ => true

/-! ### What a statement says stays as it was -/

/-- Every general register holds in `t` what it held in `s`. -/
def sameGprs (s t : State) : Prop := ∀ r, t.gpr r = s.gpr r

/-- Every index register holds in `t` what it held in `s`. -/
def sameIxrs (s t : State) : Prop := ∀ x, t.ixr x = s.ixr x

/-- Every word of memory reads in `t` as in `s`. -/
def sameWords (s t : State) : Prop := ∀ k, t.memory.word k = s.memory.word k

/-- PC, IR, CC, MFR and HALTED hold in `t` what they held in `s`. -/
def sameControl (s t : State) : Prop :=
  t.pc = s.pc ∧ t.ir = s.ir ∧ t.cc = s.cc ∧ t.mfr = s.mfr ∧ t.halted = s.halted

end Sys2Proof.Machine
end

