-- ==== Sys2Proof/Certificates/Slice0/Obligations.lean ====
section
/-! DEFINITION. The statements about the model, for the provers. Each docstring names the rules of spec/ it comes from. A
statement marked "the spec's decision" rests on a choice the spec marks as its own (92_eei_decisions.md) and says so. -/

open Sys2Proof Sys2Proof.Machine

/-! ### The codec -/

/-- R107: an encoded tuple comes back exactly when every value fits its field, in all four layouts; and a decoded word
encodes back to itself exactly when its unused bits are 0, which for LS is every word. That an encoder writes 0 in an
unused bit is the decision D14 of the spec (log entry 13). -/
def Obligations.CodecRoundTripInAllFourLayouts : Prop :=
  (∀ op r ix i addr : Nat,
    ((decLS (encLS op r ix i addr)).op.toNat = op ∧ (decLS (encLS op r ix i addr)).r.toNat = r ∧
      (decLS (encLS op r ix i addr)).ix.toNat = ix ∧ (decLS (encLS op r ix i addr)).i.toNat = i ∧
      (decLS (encLS op r ix i addr)).addr.toNat = addr) ↔
    (op < 64 ∧ r < 4 ∧ ix < 4 ∧ i < 2 ∧ addr < 32)) ∧
  (∀ op rx ry : Nat,
    ((decRR (encRR op rx ry)).op.toNat = op ∧ (decRR (encRR op rx ry)).rx.toNat = rx ∧
      (decRR (encRR op rx ry)).ry.toNat = ry) ↔ (op < 64 ∧ rx < 4 ∧ ry < 4)) ∧
  (∀ op r al lr count : Nat,
    ((decSH (encSH op r al lr count)).op.toNat = op ∧ (decSH (encSH op r al lr count)).r.toNat = r ∧
      (decSH (encSH op r al lr count)).al.toNat = al ∧ (decSH (encSH op r al lr count)).lr.toNat = lr ∧
      (decSH (encSH op r al lr count)).count.toNat = count) ↔
    (op < 64 ∧ r < 4 ∧ al < 2 ∧ lr < 2 ∧ count < 16)) ∧
  (∀ op r devid : Nat,
    ((decIO (encIO op r devid)).op.toNat = op ∧ (decIO (encIO op r devid)).r.toNat = r ∧
      (decIO (encIO op r devid)).devid.toNat = devid) ↔ (op < 64 ∧ r < 4 ∧ devid < 32)) ∧
  (∀ w : Word, (decLS w).encode = w) ∧
  (∀ w : Word, (decRR w).encode = w ↔ unusedRR w = 0) ∧
  (∀ w : Word, (decSH w).encode = w ↔ unusedSH w = 0) ∧
  (∀ w : Word, (decIO w).encode = w ↔ unusedIO w = 0)

/-- R105 without its last two sentences, which speak of the assembler and the CPU: each encoder packs its arguments,
reduced modulo their field sizes, at their bit positions, and every bit of no field is 0. That an encoder writes 0 in an
unused bit is the decision D14 of the spec (log entry 13). -/
def Obligations.EncodersMaskAndPackTheirFields : Prop :=
  (∀ op r ix i addr : Nat, (encLS op r ix i addr).toNat =
    op % 64 * 1024 + r % 4 * 256 + ix % 4 * 64 + i % 2 * 32 + addr % 32) ∧
  (∀ op rx ry : Nat, (encRR op rx ry).toNat = op % 64 * 1024 + rx % 4 * 256 + ry % 4 * 64) ∧
  (∀ op r al lr count : Nat, (encSH op r al lr count).toNat =
    op % 64 * 1024 + r % 4 * 256 + al % 2 * 128 + lr % 2 * 64 + count % 16 * 4) ∧
  (∀ op r devid : Nat, (encIO op r devid).toNat = op % 64 * 1024 + r % 4 * 256 + devid % 32) ∧
  (∀ op rx ry i : Nat, i < 6 → (encRR op rx ry).getLsbD i = false) ∧
  (∀ op r al lr count i : Nat, i < 2 → (encSH op r al lr count).getLsbD i = false) ∧
  (∀ op r devid i : Nat, 5 ≤ i → i < 8 → (encIO op r devid).getLsbD i = false)

/-- The decoder reads back every instruction the encoder may be asked for, under the opcode table's numbers. The numbers of
17 mnemonics are PRESUMED (log entry 3). -/
def Obligations.DecodeReadsBackEncode : Prop := ∀ i : Instr, i.wellFormed = true → decode (encode i) = i

/-- The same under every admissible opcode numbering, the parameters of R112 being universally quantified: no statement
about the encoder rests on the defaults. -/
def Obligations.DecodeReadsBackEncodeUnderEveryNumbering : Prop :=
  ∀ n : OpcodeNumbers, n.Admissible → ∀ i : Instr, i.wellFormed = true → decodeUnder n (encodeUnder n i) = some i

/-- Decoding loses nothing that matters: the canonical word of a decoded word, whatever word it was, decodes to the same
instruction; and it differs from the word only where R108 says the decoder does not look. The ignored bits are the
decisions D13 and D14 of the spec (log entry 13), and six of the opcode numbers are presumed (log entry 3). -/
def Obligations.CanonicalWordMeansTheSame : Prop :=
  (∀ w : Word, decode (encode (decode w)) = decode w) ∧
  (∀ w : Word, w.toNat / 1024 ∈ [1, 2, 3, 4, 5, 8, 9, 10, 14, 15] → encode (decode w) = w) ∧
  (∀ w : Word, w.toNat / 1024 ∈ [33, 34] → (encode (decode w)).toNat = w.toNat / 1024 * 1024 + w.toNat % 256)

/-- R109: the instruction is selected by the opcode field alone. -/
def Obligations.OpcodeFieldAloneSelectsTheInstruction : Prop :=
  (∀ w : Word, opcodeOf (decode w) = w.toNat / 1024) ∧
  (∀ w w' : Word, w.toNat / 1024 = w'.toNat / 1024 → (decode w).mnemonic = (decode w').mnemonic) ∧
  (∀ w w' : Word, w.toNat / 1024 = w'.toNat / 1024 → (decode w).mnemonic = none → decode w = decode w')

/-- R152: decode reads the fields of the LS layout, bits 15..10, 9..8, 7..6, 5 and 4..0, and for the executed opcodes
these are the operands. That HLT ignores bits 9..0 and LDX and STX their R field is the decision D13 of the spec (log
entry 13). -/
def Obligations.DecodeTakesOperandsFromLsFields : Prop :=
  (∀ w : Word, (decLS w).op.toNat = w.toNat / 1024 ∧ (decLS w).r.toNat = w.toNat / 256 % 4 ∧
    (decLS w).ix.toNat = w.toNat / 64 % 4 ∧ (decLS w).i.toNat = w.toNat / 32 % 2 ∧
    (decLS w).addr.toNat = w.toNat % 32) ∧
  (∀ (w : Word) (r : Gpr) (ix : Option Ixr) (ind : Bool) (addr : BitVec 5),
    gprNumber r = w.toNat / 256 % 4 → ixNumber ix = w.toNat / 64 % 4 → indirectNumber ind = w.toNat / 32 % 2 →
    addr.toNat = w.toNat % 32 →
    (w.toNat / 1024 = 0 → decode w = .hlt) ∧
    (w.toNat / 1024 = 1 → decode w = .ldr r ix ind addr) ∧
    (w.toNat / 1024 = 2 → decode w = .str r ix ind addr) ∧
    (w.toNat / 1024 = 3 → decode w = .lda r ix ind addr) ∧
    (w.toNat / 1024 = 33 → decode w = .ldx ix ind addr) ∧
    (w.toNat / 1024 = 34 → decode w = .stx ix ind addr))

/-- Words written out from the spec's tables decode to what they stand for (95_test_vectors.md 2.1; 2.6 for 0x8752, 2.7 for
0x8825, 2.8 for 0x03FF, 0x9000 and 0xFC00). What rests on a choice: the numbers of TRR, NOT, SRC and IN are the presumed
defaults, and by them 0x9000 and 0xFC00 have no mnemonic (log entry 3); the ignored bits of 0x03FF and 0x8752 are the
spec's decision D13 (log entry 13); the operand fields of AIR (0x1A1F) and NOT (0xF700) are its decision D27 (log entry
21); that TRAP (0x6000) has no operand is log entry 4, a design choice beside its decision D16. -/
def Obligations.TableWordsDecode : Prop :=
  decode 0b0000000000000000#16 = .hlt ∧ decode 0b0000001111111111#16 = .hlt ∧
  decode 0b0000011110111111#16 = .ldr .r3 (some .x2) true 31 ∧
  decode 0b0000101001000111#16 = .str .r2 (some .x1) false 7 ∧
  decode 0b0000110111101010#16 = .lda .r1 (some .x3) true 10 ∧
  decode 0b1000010001010010#16 = .ldx (some .x1) false 18 ∧
  decode 0b1000100010000101#16 = .stx (some .x2) false 5 ∧
  decode 0b1000011101010010#16 = .ldx (some .x1) false 18 ∧
  decode 0b1000100000100101#16 = .stx none true 5 ∧
  decode 0b0001101000011111#16 = .air .r2 31 ∧
  decode 0b0010000110110100#16 = .jz .r1 (some .x2) true 20 ∧
  decode 0b1110000010000000#16 = .mlt .r0 .r2 ∧
  decode 0b1110100101000000#16 = .trr .r1 .r1 ∧
  decode 0b1111011100000000#16 = .notr .r3 ∧
  decode 0b0110010110111100#16 = .src .r1 15 0 1 ∧
  decode 0b1100011000011111#16 = .inp .r2 31 ∧
  decode 0b0110000000000000#16 = .trap ∧
  decode 0b1001000000000000#16 = .unassigned_0o44 ∧
  decode 0b1111110000000000#16 = .unassigned_0o77

/-- R113, R116, R118, R120, R121: which operand goes to which field, under every opcode numbering; and index 0 means no
indexing. The zeros of RFS in R, IX and I are the decision D14 of the spec (log entry 13). The contracts of LDX, STX,
JCC, AIR, SIR and NOT stand in EncoderPlacesTheRemainingOperands. -/
def Obligations.EncoderFollowsTheOperandContracts : Prop :=
  ∀ n : OpcodeNumbers,
  (∀ (r : Gpr) (ix : Option Ixr) (ind : Bool) (addr : BitVec 5),
    ∀ p ∈ ([(.ldr, .ldr r ix ind addr), (.str, .str r ix ind addr), (.lda, .lda r ix ind addr),
      (.amr, .amr r ix ind addr), (.smr, .smr r ix ind addr), (.jz, .jz r ix ind addr),
      (.jne, .jne r ix ind addr), (.sob, .sob r ix ind addr), (.jge, .jge r ix ind addr)] : List (Mnemonic × Instr)),
    encodeUnder n p.2 = encLS (n p.1).toNat (gprNumber r) (ixNumber ix) (indirectNumber ind) addr.toNat) ∧
  (ixNumber none = 0 ∧ ∀ (addr : BitVec 5) (s : State), (indexedAddress none addr s).toNat = addr.toNat) ∧
  (∀ imm : BitVec 5, encodeUnder n (.rfs imm) = encLS (n .rfs).toNat 0 0 0 imm.toNat) ∧
  (∀ (rx ry : Gpr),
    ∀ p ∈ ([(.mlt, .mlt rx ry), (.dvd, .dvd rx ry), (.trr, .trr rx ry), (.andr, .andr rx ry), (.orr, .orr rx ry)] : List (Mnemonic × Instr)),
    encodeUnder n p.2 = encRR (n p.1).toNat (gprNumber rx) (gprNumber ry)) ∧
  (∀ (r : Gpr) (count : BitVec 4) (lr al : BitVec 1),
    ∀ p ∈ ([(.src, .src r count lr al), (.rrc, .rrc r count lr al)] : List (Mnemonic × Instr)),
    encodeUnder n p.2 = encSH (n p.1).toNat (gprNumber r) al.toNat lr.toNat count.toNat) ∧
  (∀ (r : Gpr) (devid : BitVec 5),
    ∀ p ∈ ([(.inp, .inp r devid), (.out, .out r devid), (.chk, .chk r devid)] : List (Mnemonic × Instr)),
    encodeUnder n p.2 = encIO (n p.1).toNat (gprNumber r) devid.toNat)

/-- The operand placements and the zeros that are the spec's decisions D14, D16 and D27 (R114, R115, R117, R119, R122; log
entries 4, 13, 21), under every opcode numbering. The word of TRAP has 0 in every operand field, whatever the parameter
`TRAP_LAYOUT` is. -/
def Obligations.EncoderPlacesTheRemainingOperands : Prop :=
  ∀ n : OpcodeNumbers,
  (∀ (ix : Option Ixr) (ind : Bool) (addr : BitVec 5),
    encodeUnder n (.ldx ix ind addr) = encLS (n .ldx).toNat 0 (ixNumber ix) (indirectNumber ind) addr.toNat ∧
    encodeUnder n (.stx ix ind addr) = encLS (n .stx).toNat 0 (ixNumber ix) (indirectNumber ind) addr.toNat) ∧
  (∀ (cc : BitVec 2) (ix : Option Ixr) (ind : Bool) (addr : BitVec 5),
    encodeUnder n (.jcc cc ix ind addr) = encLS (n .jcc).toNat cc.toNat (ixNumber ix) (indirectNumber ind) addr.toNat) ∧
  (∀ (r : Gpr) (imm : BitVec 5),
    encodeUnder n (.air r imm) = encLS (n .air).toNat (gprNumber r) 0 0 imm.toNat ∧
    encodeUnder n (.sir r imm) = encLS (n .sir).toNat (gprNumber r) 0 0 imm.toNat) ∧
  (∀ rx : Gpr, encodeUnder n (.notr rx) = encRR (n .notr).toNat (gprNumber rx) 0) ∧
  encode .hlt = 0x0000#16 ∧ encode .trap = 0x6000#16 ∧
  (∀ l : TrapLayout, l.Admissible → trapOperands l (encode .trap) = l.map fun _ => 0)

/-! ### The Memory -/

/-- R62, R63: a latch in range records its address and what is pending, reads no word and changes none; out of range it
raises the range fault. That a latch over a pending operation replaces it is the decision D4 of the spec (log entry 8).
-/
def Obligations.LatchRecordsAddressAndKind : Prop :=
  (∀ (m : Memory) (a : Nat), a < 2048 →
    (∃ m', m.latchRead a = .ok m' ∧ m'.latchedAddr.toNat = a ∧ m'.pending = .read ∧ ∀ k, m'.word k = m.word k) ∧
    (∃ m', m.latchWrite a = .ok m' ∧ m'.latchedAddr.toNat = a ∧ m'.pending = .write ∧ ∀ k, m'.word k = m.word k)) ∧
  (∀ (m : Memory) (a : Nat), 2048 ≤ a → m.latchRead a = .error (.range a) ∧ m.latchWrite a = .error (.range a))

/-- R65: a latch out of range raises the range fault and changes nothing. That the session state stays is the spec's
decision D5 (log entry 9). -/
def Obligations.LatchOutOfRangeChangesNothing : Prop :=
  ∀ (a : Int) (s : State), (a < 0 ∨ 2048 ≤ a) →
  hostOp (.latchRead a) s = (.memFault (.range a), s) ∧ hostOp (.latchWrite a) s = (.memFault (.range a), s)

/-- R66, R67: a transfer that matches what is pending, and one that does not. The memory is in its canonical form, which every operation keeps. -/
def Obligations.TransferServesThePendingLatch : Prop :=
  ∀ m : Memory, m.wf = true →
  (m.pending = .read →
    ∃ m', m.transferRead = .ok (m.word m.latchedAddr.toNat, m') ∧ m'.pending = .none ∧ ∀ k, m'.word k = m.word k) ∧
  (m.pending = .write → ∀ v : Word,
    ∃ m', m.transferWrite v = .ok m' ∧ m'.pending = .none ∧ m'.word m.latchedAddr.toNat = v ∧
      ∀ k, k ≠ m.latchedAddr.toNat → m'.word k = m.word k) ∧
  (m.pending ≠ .read → m.transferRead = .error .protocol) ∧
  (m.pending ≠ .write → ∀ v : Word, m.transferWrite v = .error .protocol)

/-- R68: the four mismatched transfers raise the protocol fault and change nothing. That the pending operation stays is the
spec's decision D6 (log entry 9). -/
def Obligations.MismatchedTransferIsAProtocolFault : Prop :=
  ∀ s : State,
  (s.memory.pending ≠ .read → hostOp .transferRead s = (.memFault .protocol, s)) ∧
  (s.memory.pending ≠ .write → ∀ v, hostOp (.transferWrite v) s = (.memFault .protocol, s))

/-- R70, R71: peek and poke check the range and take no part in the two-phase protocol. -/
def Obligations.PeekAndPokeBypassTheProtocol : Prop :=
  ∀ s : State, s.memory.wf = true →
  (∀ a : Nat, a < 2048 → hostOp (.peek a) s = (.word (s.memory.word a), s)) ∧
  (∀ a : Int, (a < 0 ∨ 2048 ≤ a) → hostOp (.peek a) s = (.memFault (.range a), s)) ∧
  (∀ (a : Nat) (v : Word), a < 2048 →
    ∃ m', hostOp (.poke a v.toNat) s = (.ok, { s with memory := m' }) ∧ m'.word a = v ∧
      (∀ k, k ≠ a → m'.word k = s.memory.word k) ∧ m'.pending = s.memory.pending ∧
      m'.latchedAddr = s.memory.latchedAddr) ∧
  (∀ a v : Int, (a < 0 ∨ 2048 ≤ a) → 0 ≤ v → v < 65536 → hostOp (.poke a v) s = (.memFault (.range a), s))

/-- R64, R300: a CPU access in range does not depend on what a raw client left pending; it replaces it. The replacing latch
is the spec's decision D4 (log entry 8). -/
def Obligations.CpuAccessReplacesAPendingLatch : Prop :=
  ∀ (s : State) (p : Pending) (l : BitVec 11) (a : Addr) (v : Word), a.toNat < 2048 →
  memRead a { s with memory := ⟨s.memory.cells, p, l⟩ } = memRead a s ∧
  memWrite a v { s with memory := ⟨s.memory.cells, p, l⟩ } = memWrite a v s ∧
  (s.pc.toNat < 2048 → fetch { s with memory := ⟨s.memory.cells, p, l⟩ } = fetch s)

/-- Memories in canonical form with equal words and equal session state are equal data: the model's own form of memory (log
entry 15). -/
def Obligations.CanonicalMemoriesWithEqualWordsAreEqual : Prop :=
  ∀ m m' : Memory, m.wf = true → m'.wf = true → m.pending = m'.pending → m.latchedAddr = m'.latchedAddr →
  (∀ a, a < 2048 → m.word a = m'.word a) → m = m'

/-- R294, R71: poking a list of words at addresses of the memory leaves at each address the last word poked there, which is
every word of the list where no address is named twice, and everything else as it was. The canonical form of the memory, in
the premise and in the conclusion, is the model's own (log entry 15). -/
def Obligations.PokingLoadsTheWords : Prop :=
  ∀ (image : List (Nat × Word)) (s : State), s.memory.wf = true →
  (∀ c ∈ image, c.1 < 2048) →
  ∃ m', hostOps (image.map fun c => .poke (c.1 : Int) (c.2.toNat : Int)) s = { s with memory := m' } ∧
    (∀ earlier c later, image = earlier ++ c :: later → c.1 ∉ later.map (·.1) → m'.word c.1 = c.2) ∧
    (∀ k, k ∉ image.map (·.1) → m'.word k = s.memory.word k) ∧
    m'.wf = true ∧ m'.pending = s.memory.pending ∧ m'.latchedAddr = s.memory.latchedAddr

/-! ### The cycle -/

/-- R151: the fetch, and the fetch from an address that does not exist. The state that the abandoned fetch leaves is the
decision D8 of the spec (log entry 6), the session state kept by the refused latch is D5 (log entry 9), and that the
latch of a fetch replaces what was pending is D4 (log entry 8). -/
def Obligations.FetchSequence : Prop :=
  ∀ s : State,
  (s.pc.toNat < 2048 →
    fetch s = .ok (s.memory.word s.pc.toNat)
      { s with
        mar := s.pc
        mbr := s.memory.word s.pc.toNat
        ir := s.memory.word s.pc.toNat
        pc := BitVec.ofNat 12 ((s.pc.toNat + 1) % 4096)
        memory := ⟨s.memory.cells, .none, BitVec.ofNat 11 s.pc.toNat⟩ }) ∧
  (2048 ≤ s.pc.toNat → fetch s = .memFault (.range s.pc.toNat) { s with mar := s.pc })

/-- R150, R151, R152: a step of a RUNNING machine whose PC lies in the memory is the execute phase of the instruction that
the word at PC decodes to, on the state the fetch leaves. This is how the statements about `exec` reach a run. -/
def Obligations.StepRunsTheDecodedInstruction : Prop :=
  ∀ (s : State) (i : Instr), s.halted = false → s.pc.toNat < 2048 → decode (s.memory.word s.pc.toNat) = i →
  step s = exec i
    { s with
      mar := s.pc
      mbr := s.memory.word s.pc.toNat
      ir := s.memory.word s.pc.toNat
      pc := s.pc + 1
      memory := ⟨s.memory.cells, .none, BitVec.ofNat 11 s.pc.toNat⟩ }

/-- R160: a step request while HALTED changes nothing. The spec's decision D11 (log entry 10). -/
def Obligations.StepOfAHaltedMachineChangesNothing : Prop :=
  ∀ s : State, s.halted = true → step s = .next s ∧ executeOneStep s = (.alreadyHalted, s)

/-- R151, R162, R264: a step from a PC outside the memory ends in the range fault of the fetch, with MAR written and PC kept.
That the machine goes on is the spec's decision D8 (log entry 6). -/
def Obligations.StepFromOutsideMemoryFaults : Prop :=
  ∀ s : State, s.halted = false → 2048 ≤ s.pc.toNat →
  step s = .next { s with mar := s.pc, memFault := s.memFault.or (some (.range s.pc.toNat)) } ∧
  stepOutcome s = .memFault (.range s.pc.toNat)

/-- R155, R156: the effective address, indexed and unindexed; the upper bits of an index register play no part. That the
fault of the read abandons the computation where it stood is the decision D8 of the spec (log entry 6). -/
def Obligations.EffectiveAddressIndexesThenIndirects : Prop :=
  (∀ (addr : BitVec 5) (s : State), (indexedAddress none addr s).toNat = addr.toNat) ∧
  (∀ (x : Ixr) (addr : BitVec 5) (s : State),
    (indexedAddress (some x) addr s).toNat = (addr.toNat + (s.ixr x).toNat) % 4096) ∧
  (∀ (x : Ixr) (addr : BitVec 5) (s : State) (v : Word), v.toNat % 4096 = (s.ixr x).toNat % 4096 →
    indexedAddress (some x) addr (s.setIxr x v) = indexedAddress (some x) addr s) ∧
  (∀ (ix : Option Ixr) (addr : BitVec 5) (s : State),
    eaIndexed ix false addr s = .ok (indexedAddress ix addr s) s) ∧
  (∀ (ix : Option Ixr) (addr : BitVec 5) (s : State),
    eaIndexed ix true addr s =
      match memRead (indexedAddress ix addr s) s with
      | .ok w t => .ok (BitVec.ofNat 12 (w.toNat % 4096)) t
      | .memFault f t => .memFault f t) ∧
  (∀ (ind : Bool) (addr : BitVec 5) (s : State), eaUnindexed ind addr s = eaIndexed none ind addr s) ∧
  (∀ (addr : BitVec 5) (s : State), ∃ e, eaUnindexed false addr s = .ok e s ∧ e.toNat = addr.toNat ∧ e.toNat < 32)

/-- R153, R154: the CPU's read and write of one word, in range and out of range. That they use MAR and MBR so is the
spec's decision D7 (log entry 7). -/
def Obligations.CpuAccessGoesThroughMarAndMbr : Prop :=
  ∀ (a : Addr) (v : Word) (s : State), s.memory.wf = true →
  (a.toNat < 2048 →
    (∃ t, memRead a s = .ok (s.memory.word a.toNat) t ∧ t.mar = a ∧ t.mbr = s.memory.word a.toNat ∧
      t.memory.pending = .none ∧ sameWords s t ∧ sameGprs s t ∧ sameIxrs s t ∧ sameControl s t ∧
      t.memFault = s.memFault) ∧
    (∃ t, memWrite a v s = .ok () t ∧ t.mar = a ∧ t.mbr = v ∧ t.memory.pending = .none ∧
      t.memory.word a.toNat = v ∧ (∀ k, k ≠ a.toNat → t.memory.word k = s.memory.word k) ∧
      sameGprs s t ∧ sameIxrs s t ∧ sameControl s t ∧ t.memFault = s.memFault)) ∧
  (2048 ≤ a.toNat →
    memRead a s = .memFault (.range a.toNat) { s with mar := a } ∧
    memWrite a v s = .memFault (.range a.toNat) { s with mar := a, mbr := v })

/-! ### The executed instructions

`indexedAddress` and `finalAddress` are functions of the state and the operands: the address before indirection and the
effective address. MAR and MBR after a data access follow the spec's decision D7 (log entry 7). Where a `MemFault` is raised
the machine goes on by the spec's decision D8 (log entry 6), and the statement tells the fault by the model's own mark (log
entry 20). -/

/-- R180: LDR. -/
def Obligations.LdrLoadsTheWordAtTheEffectiveAddress : Prop :=
  ∀ (r : Gpr) (ix : Option Ixr) (ind : Bool) (addr : BitVec 5) (s : State),
  encode (.ldr r ix ind addr) = encLS 1 (gprNumber r) (ixNumber ix) (indirectNumber ind) addr.toNat ∧
  ((ind = true → (indexedAddress ix addr s).toNat < 2048) → (finalAddress ix ind addr s).toNat < 2048 →
    ∃ t, exec (.ldr r ix ind addr) s = .next t ∧
      t.gpr r = s.memory.word (finalAddress ix ind addr s).toNat ∧ (∀ r', r' ≠ r → t.gpr r' = s.gpr r') ∧
      t.mar = finalAddress ix ind addr s ∧ t.mbr = s.memory.word (finalAddress ix ind addr s).toNat ∧
      sameIxrs s t ∧ sameWords s t ∧ sameControl s t ∧ t.memFault = s.memFault) ∧
  (ind = true → 2048 ≤ (indexedAddress ix addr s).toNat →
    ∃ t, exec (.ldr r ix ind addr) s = .next t ∧
      t.memFault = s.memFault.or (some (.range (indexedAddress ix addr s).toNat)) ∧
      sameGprs s t ∧ sameIxrs s t ∧ sameWords s t ∧ sameControl s t) ∧
  ((ind = true → (indexedAddress ix addr s).toNat < 2048) → 2048 ≤ (finalAddress ix ind addr s).toNat →
    ∃ t, exec (.ldr r ix ind addr) s = .next t ∧
      t.memFault = s.memFault.or (some (.range (finalAddress ix ind addr s).toNat)) ∧
      sameGprs s t ∧ sameIxrs s t ∧ sameWords s t ∧ sameControl s t)

/-- R181: STR. The memory is in its canonical form, which every step keeps. -/
def Obligations.StrStoresTheRegisterAtTheEffectiveAddress : Prop :=
  ∀ (r : Gpr) (ix : Option Ixr) (ind : Bool) (addr : BitVec 5) (s : State), s.memory.wf = true →
  encode (.str r ix ind addr) = encLS 2 (gprNumber r) (ixNumber ix) (indirectNumber ind) addr.toNat ∧
  ((ind = true → (indexedAddress ix addr s).toNat < 2048) → (finalAddress ix ind addr s).toNat < 2048 →
    ∃ t, exec (.str r ix ind addr) s = .next t ∧
      t.memory.word (finalAddress ix ind addr s).toNat = s.gpr r ∧
      (∀ k, k ≠ (finalAddress ix ind addr s).toNat → t.memory.word k = s.memory.word k) ∧
      t.mar = finalAddress ix ind addr s ∧ t.mbr = s.gpr r ∧
      sameGprs s t ∧ sameIxrs s t ∧ sameControl s t ∧ t.memFault = s.memFault) ∧
  (ind = true → 2048 ≤ (indexedAddress ix addr s).toNat →
    ∃ t, exec (.str r ix ind addr) s = .next t ∧
      t.memFault = s.memFault.or (some (.range (indexedAddress ix addr s).toNat)) ∧
      sameGprs s t ∧ sameIxrs s t ∧ sameWords s t ∧ sameControl s t) ∧
  ((ind = true → (indexedAddress ix addr s).toNat < 2048) → 2048 ≤ (finalAddress ix ind addr s).toNat →
    ∃ t, exec (.str r ix ind addr) s = .next t ∧
      t.memFault = s.memFault.or (some (.range (finalAddress ix ind addr s).toNat)) ∧
      sameGprs s t ∧ sameIxrs s t ∧ sameWords s t ∧ sameControl s t)

/-- R182: LDA. No access is made at the effective address, so any value of it is loaded; without indirection MAR, MBR and the
Memory are not touched at all. -/
def Obligations.LdaLoadsTheEffectiveAddressItself : Prop :=
  ∀ (r : Gpr) (ix : Option Ixr) (ind : Bool) (addr : BitVec 5) (s : State),
  encode (.lda r ix ind addr) = encLS 3 (gprNumber r) (ixNumber ix) (indirectNumber ind) addr.toNat ∧
  ((ind = true → (indexedAddress ix addr s).toNat < 2048) →
    ∃ t, exec (.lda r ix ind addr) s = .next t ∧
      (t.gpr r).toNat = (finalAddress ix ind addr s).toNat ∧ (∀ r', r' ≠ r → t.gpr r' = s.gpr r') ∧
      sameIxrs s t ∧ sameWords s t ∧ sameControl s t ∧ t.memFault = s.memFault ∧
      (ind = false → t.mar = s.mar ∧ t.mbr = s.mbr ∧ t.memory = s.memory) ∧
      (ind = true → t.mar = indexedAddress ix addr s ∧ t.mbr = s.memory.word (indexedAddress ix addr s).toNat)) ∧
  (ind = true → 2048 ≤ (indexedAddress ix addr s).toNat →
    ∃ t, exec (.lda r ix ind addr) s = .next t ∧
      t.memFault = s.memFault.or (some (.range (indexedAddress ix addr s).toNat)) ∧
      sameGprs s t ∧ sameIxrs s t ∧ sameWords s t ∧ sameControl s t)

/-- R183: LDX. Its address is unindexed: the old value of the index register plays no part. R = 0 in its word is the
decision D14 of the spec (log entry 13); that the IX = 0 check comes first is D10 (log entry 12), and the MFR code is a
parameter (log entry 1). -/
def Obligations.LdxLoadsTheIndexRegister : Prop :=
  ∀ (x : Ixr) (ind : Bool) (addr : BitVec 5) (s : State),
  encode (.ldx (some x) ind addr) = encLS 33 0 (ixNumber (some x)) (indirectNumber ind) addr.toNat ∧
  ((finalAddress none ind addr s).toNat < 2048 →
    ∃ t, exec (.ldx (some x) ind addr) s = .next t ∧
      t.ixr x = s.memory.word (finalAddress none ind addr s).toNat ∧ (∀ x', x' ≠ x → t.ixr x' = s.ixr x') ∧
      t.mar = finalAddress none ind addr s ∧ t.mbr = s.memory.word (finalAddress none ind addr s).toNat ∧
      sameGprs s t ∧ sameWords s t ∧ sameControl s t ∧ t.memFault = s.memFault) ∧
  (2048 ≤ (finalAddress none ind addr s).toNat →
    ∃ t, exec (.ldx (some x) ind addr) s = .next t ∧
      t.memFault = s.memFault.or (some (.range (finalAddress none ind addr s).toNat)) ∧
      sameGprs s t ∧ sameIxrs s t ∧ sameWords s t ∧ sameControl s t) ∧
  (ind = false → (finalAddress none ind addr s).toNat < 2048) ∧
  exec (.ldx none ind addr) s = .next { s with mfr := mfrIllegalOperand, halted := true }

/-- R184: STX. R = 0 in its word is the decision D14 of the spec (log entry 13); that the IX = 0 check comes first is
D10 (log entry 12), and the MFR code is a parameter (log entry 1). -/
def Obligations.StxStoresTheIndexRegister : Prop :=
  ∀ (x : Ixr) (ind : Bool) (addr : BitVec 5) (s : State), s.memory.wf = true →
  encode (.stx (some x) ind addr) = encLS 34 0 (ixNumber (some x)) (indirectNumber ind) addr.toNat ∧
  ((finalAddress none ind addr s).toNat < 2048 →
    ∃ t, exec (.stx (some x) ind addr) s = .next t ∧
      t.memory.word (finalAddress none ind addr s).toNat = s.ixr x ∧
      (∀ k, k ≠ (finalAddress none ind addr s).toNat → t.memory.word k = s.memory.word k) ∧
      t.mar = finalAddress none ind addr s ∧ t.mbr = s.ixr x ∧
      sameGprs s t ∧ sameIxrs s t ∧ sameControl s t ∧ t.memFault = s.memFault) ∧
  (2048 ≤ (finalAddress none ind addr s).toNat →
    ∃ t, exec (.stx (some x) ind addr) s = .next t ∧
      t.memFault = s.memFault.or (some (.range (finalAddress none ind addr s).toNat)) ∧
      sameGprs s t ∧ sameIxrs s t ∧ sameWords s t ∧ sameControl s t) ∧
  (ind = false → (finalAddress none ind addr s).toNat < 2048) ∧
  exec (.stx none ind addr) s = .next { s with mfr := mfrIllegalOperand, halted := true }

/-- R200: HLT writes HALTED and nothing else, every word of opcode 0 is HLT, and a step that fetches one is the fetch
with HALTED true and has the outcome `halted_by(HLT)`, whatever MFR and the mark held. That HLT ignores bits 9..0 and
encodes with zeros there are the decisions D13 and D14 of the spec (log entry 13). -/
def Obligations.HltSetsHaltedOnly : Prop :=
  encode .hlt = 0x0000#16 ∧ (∀ w : Word, w.toNat < 1024 → decode w = .hlt) ∧
  (∀ s : State, exec .hlt s = .next { s with halted := true }) ∧
  ∀ (s : State) (w : Word), s.halted = false → s.pc.toNat < 2048 → s.memory.word s.pc.toNat = w → w.toNat < 1024 →
    step s = .next
      { s with
        mar := s.pc
        mbr := w
        ir := w
        pc := s.pc + 1
        halted := true
        memory := ⟨s.memory.cells, .none, BitVec.ofNat 11 s.pc.toNat⟩ } ∧
    stepOutcome s = .haltedBy .hlt

/-- The frame of LDR, LDA and LDX: whatever the outcome, only the destination register, MAR, MBR, the Memory's session
state and the mark may change, and MFR and HALTED where LDX has IX = 0 (41_load_store.md; R33, R35, R38). Every word of
memory reads as before. What a range fault leaves is the decision D8 of the spec (log entry 6); that IX = 0 is found
before any access is D10 (log entry 12). -/
def Obligations.LoadsKeepEverythingElse : Prop :=
  (∀ (r : Gpr) (ix : Option Ixr) (ind : Bool) (addr : BitVec 5) (i : Instr) (s t : State),
    i = .ldr r ix ind addr ∨ i = .lda r ix ind addr → exec i s = .next t →
    (∀ r', r' ≠ r → t.gpr r' = s.gpr r') ∧ sameIxrs s t ∧ sameWords s t ∧ sameControl s t) ∧
  (∀ (x : Ixr) (ind : Bool) (addr : BitVec 5) (s t : State), exec (.ldx (some x) ind addr) s = .next t →
    (∀ x', x' ≠ x → t.ixr x' = s.ixr x') ∧ sameGprs s t ∧ sameWords s t ∧ sameControl s t) ∧
  (∀ (ind : Bool) (addr : BitVec 5) (s t : State), exec (.ldx none ind addr) s = .next t →
    t = { s with mfr := t.mfr, halted := t.halted })

/-- The frame of STR and STX: no register but MAR and MBR changes, and every word of memory reads as before except the
one at the address that `eaIndexed` (`eaUnindexed` for STX), applied as the meaning applies it, gives. Where it gives
none, or one outside the memory, every word reads as before. What a range fault leaves is the decision D8 of the spec
(log entry 6); that IX = 0 is found before any access is D10 (log entry 12). -/
def Obligations.StoresKeepEverythingElse : Prop :=
  (∀ (r : Gpr) (ix : Option Ixr) (ind : Bool) (addr : BitVec 5) (s t : State),
    exec (.str r ix ind addr) s = .next t →
    sameGprs s t ∧ sameIxrs s t ∧ sameControl s t ∧
    (∀ e s', eaIndexed ix ind addr s = .ok e s' → ∀ k, k ≠ e.toNat → t.memory.word k = s.memory.word k) ∧
    (∀ e s', eaIndexed ix ind addr s = .ok e s' → 2048 ≤ e.toNat → sameWords s t) ∧
    (∀ f s', eaIndexed ix ind addr s = .memFault f s' → sameWords s t)) ∧
  (∀ (x : Ixr) (ind : Bool) (addr : BitVec 5) (s t : State),
    exec (.stx (some x) ind addr) s = .next t →
    sameGprs s t ∧ sameIxrs s t ∧ sameControl s t ∧
    (∀ e s', eaUnindexed ind addr s = .ok e s' → ∀ k, k ≠ e.toNat → t.memory.word k = s.memory.word k) ∧
    (∀ e s', eaUnindexed ind addr s = .ok e s' → 2048 ≤ e.toNat → sameWords s t)) ∧
  (∀ (ind : Bool) (addr : BitVec 5) (s t : State), exec (.stx none ind addr) s = .next t →
    t = { s with mfr := t.mfr, halted := t.halted })

/-! ### The opcodes the CPU does not execute -/

/-- R204, R207 to R209, R211 to R213: JZ, AMR, SMR, JNE, RFS, SOB and JGE write MFR and HALTED and nothing else; and
their encodings, under every opcode numbering. AIR, SIR and JCC halt likewise (R201); where their operands stand is said
in `EncoderPlacesTheRemainingOperands`. The zeros of RFS in R, IX and I are the decision D14 of the spec (log entry 13).
-/
def Obligations.LsMnemonicsOutsideTheSubsetHalt : Prop :=
  ∀ (n : OpcodeNumbers) (r : Gpr) (cc : BitVec 2) (ix : Option Ixr) (ind : Bool) (addr : BitVec 5) (s : State),
  encode (.jz r ix ind addr) = encLS 8 (gprNumber r) (ixNumber ix) (indirectNumber ind) addr.toNat ∧
  encodeUnder n (.rfs addr) = encLS (n .rfs).toNat 0 0 0 addr.toNat ∧
  (∀ p ∈ ([(.amr, .amr r ix ind addr), (.smr, .smr r ix ind addr), (.jne, .jne r ix ind addr),
      (.sob, .sob r ix ind addr), (.jge, .jge r ix ind addr)] : List (Mnemonic × Instr)),
    encodeUnder n p.2 = encLS (n p.1).toNat (gprNumber r) (ixNumber ix) (indirectNumber ind) addr.toNat) ∧
  ∀ i ∈ [Instr.air r addr, .sir r addr, .jz r ix ind addr, .amr r ix ind addr, .smr r ix ind addr,
    .jne r ix ind addr, .jcc cc ix ind addr, .rfs addr, .sob r ix ind addr, .jge r ix ind addr],
    exec i s = .next { s with mfr := 0b0100#4, halted := true }

/-- R205, R214 to R217: MLT, DVD, TRR, AND and ORR write MFR and HALTED and nothing else; and their encodings. NOT halts
likewise (R201); its encoding is said in `EncoderPlacesTheRemainingOperands`. -/
def Obligations.RrMnemonicsOutsideTheSubsetHalt : Prop :=
  ∀ (n : OpcodeNumbers) (rx ry : Gpr) (s : State),
  encode (.mlt rx ry) = encRR 56 (gprNumber rx) (gprNumber ry) ∧
  (∀ p ∈ ([(.dvd, .dvd rx ry), (.trr, .trr rx ry), (.andr, .andr rx ry), (.orr, .orr rx ry)] : List (Mnemonic × Instr)),
    encodeUnder n p.2 = encRR (n p.1).toNat (gprNumber rx) (gprNumber ry)) ∧
  ∀ i ∈ [Instr.mlt rx ry, .dvd rx ry, .trr rx ry, .andr rx ry, .orr rx ry, .notr rx],
    exec i s = .next { s with mfr := 0b0100#4, halted := true }

/-- R219 to R223: SRC, RRC, IN, OUT and CHK write MFR and HALTED and nothing else; and their encodings. TRAP halts likewise,
and every word of its opcode is TRAP, an instruction without operands (R201, R109; that TRAP has no operands in the model is
its choice, log entry 4). -/
def Obligations.ShiftAndIoMnemonicsAndTrapHalt : Prop :=
  ∀ (n : OpcodeNumbers) (r : Gpr) (count : BitVec 4) (lr al : BitVec 1) (devid : BitVec 5) (s : State),
  (∀ p ∈ ([(.src, .src r count lr al), (.rrc, .rrc r count lr al)] : List (Mnemonic × Instr)),
    encodeUnder n p.2 = encSH (n p.1).toNat (gprNumber r) al.toNat lr.toNat count.toNat) ∧
  (∀ p ∈ ([(.inp, .inp r devid), (.out, .out r devid), (.chk, .chk r devid)] : List (Mnemonic × Instr)),
    encodeUnder n p.2 = encIO (n p.1).toNat (gprNumber r) devid.toNat) ∧
  (∀ w : Word, 0x6000 ≤ w.toNat → w.toNat ≤ 0x63FF → decode w = .trap) ∧
  ∀ i ∈ [Instr.src r count lr al, .rrc r count lr al, .inp r devid, .out r devid, .chk r devid, .trap],
    exec i s = .next { s with mfr := 0b0100#4, halted := true }

/-- R224: each of the 36 opcode values without a mnemonic, under the default numbers (log entry 3), is an illegal opcode. -/
def Obligations.UnassignedOpcodesHalt : Prop :=
  (∀ w : Word, (decode w).mnemonic = none ↔ decode w ∈ Instr.unassigned) ∧
  ∀ i ∈ Instr.unassigned, ∀ s : State, exec i s = .next { s with mfr := 0b0100#4, halted := true }

/-- R201, R262: a step that fetches a word whose opcode field is none of 0, 1, 2, 3, 33, 34 writes MFR and HALTED after the
fetch and nothing else, whatever the other ten bits are; its outcome is the halt by illegal opcode. -/
def Obligations.OpcodeOutsideTheSubsetHaltsTheStep : Prop :=
  ∀ (s : State) (w : Word), s.halted = false → s.pc.toNat < 2048 → s.memory.word s.pc.toNat = w →
  w.toNat / 1024 ∉ [0, 1, 2, 3, 33, 34] →
  step s = .next
    { s with
      mar := s.pc
      mbr := w
      ir := w
      pc := s.pc + 1
      mfr := 0b0100#4
      halted := true
      memory := ⟨s.memory.cells, .none, BitVec.ofNat 11 s.pc.toNat⟩ } ∧
  stepOutcome s = .haltedBy .illegalOpcode

/-- R263: the illegal-operand fault: LDX or STX with IX = 0, and no other field value of any executed instruction. Its
MFR code is not 0; which code it is, is the parameter (log entry 1). That the check comes before any memory access is
the spec's decision D10 (log entry 12). That bits 9..8 of such a word are ignored is the decision D13 of the spec (log
entry 13). -/
def Obligations.IxZeroIsTheOnlyIllegalOperand : Prop :=
  (∀ s : State, stepOutcome s = .haltedBy .illegalOperand ↔
    (s.halted = false ∧ s.pc.toNat < 2048 ∧ (s.memory.word s.pc.toNat).toNat / 1024 ∈ [33, 34] ∧
      (s.memory.word s.pc.toNat).toNat / 64 % 4 = 0)) ∧
  (∀ s : State, stepOutcome s = .haltedBy .illegalOperand →
    step s = .next
      { s with
        mar := s.pc
        mbr := s.memory.word s.pc.toNat
        ir := s.memory.word s.pc.toNat
        pc := s.pc + 1
        mfr := mfrIllegalOperand
        halted := true
        memory := ⟨s.memory.cells, .none, BitVec.ofNat 11 s.pc.toNat⟩ }) ∧
  mfrIllegalOperand ≠ 0

/-! ### The whole machine -/

/-- R12, R150: the outcome of a step says what it did: it is one of four kinds; a completed instruction leaves the machine
RUNNING, a halt leaves it HALTED, and a `MemFault` leaves MFR and HALTED alone and is recorded in the mark. The last is the
spec's decision D8 (log entries 6, 19, 20). -/
def Obligations.OutcomeSaysWhatTheStepDid : Prop :=
  ∀ s t : State, step s = .next t →
  (s.halted = true → stepOutcome s = .alreadyHalted ∧ t = s) ∧
  (s.halted = false →
    (∃ m, stepOutcome s = .stepped m ∧ m ∈ [.ldr, .str, .lda, .ldx, .stx] ∧ (decode t.ir).mnemonic = some m ∧
      t.halted = false ∧ t.mfr = s.mfr ∧ t.memFault = s.memFault) ∨
    (∃ c, stepOutcome s = .haltedBy c ∧ t.halted = true ∧ t.memFault = s.memFault ∧
      (c = .hlt ↔ decode t.ir = .hlt) ∧ (c = .illegalOpcode ↔ illegalInstr (decode t.ir) = true) ∧
      (c = .hlt → t.mfr = s.mfr) ∧ (c = .illegalOpcode → t.mfr = 0b0100#4) ∧
      (c = .illegalOperand → t.mfr = mfrIllegalOperand ∧ t.mfr ≠ 0)) ∨
    (∃ f, stepOutcome s = .memFault f ∧ t.halted = false ∧ t.mfr = s.mfr ∧ t.memFault = s.memFault.or (some f)))

/-- R302, R264: a step always answers a next state: no step faults and no step is refused. That a `MemFault` inside a
step is a next state is the decision D8 of the spec (log entry 6). -/
def Obligations.StepAlwaysAnswersANextState : Prop := ∀ s : State, ∃ t, step s = .next t

/-- R162: PC after a step: kept by a halted machine and by a fetch from outside the memory, else one more modulo 4096.
The step of a halted machine is the decision D11 of the spec (log entry 10), and the state after the faulting fetch is
D8 (log entry 6). -/
def Obligations.PcAfterAStep : Prop :=
  ∀ s t : State, step s = .next t →
  ((s.halted = true ∨ 2048 ≤ s.pc.toNat) → t.pc = s.pc) ∧
  (s.halted = false → s.pc.toNat < 2048 → t.pc.toNat = (s.pc.toNat + 1) % 4096)

/-- R163: MAR and MBR after the execute phase. Rests on the spec's decision D7, and on D8 for the faults (log entries 6, 7). -/
def Obligations.MarAndMbrAfterTheExecutePhase : Prop :=
  ∀ (r : Gpr) (ix : Option Ixr) (x : Ixr) (ind : Bool) (addr : BitVec 5) (s t : State),
  (exec .hlt s = .next t → t.mar = s.mar ∧ t.mbr = s.mbr) ∧
  (∀ i, illegalInstr i = true → exec i s = .next t → t.mar = s.mar ∧ t.mbr = s.mbr) ∧
  ((exec (.ldx none ind addr) s = .next t ∨ exec (.stx none ind addr) s = .next t) →
    t.mar = s.mar ∧ t.mbr = s.mbr) ∧
  (exec (.lda r ix false addr) s = .next t → t.mar = s.mar ∧ t.mbr = s.mbr) ∧
  (exec (.lda r ix true addr) s = .next t → t.mar = indexedAddress ix addr s ∧
    ((indexedAddress ix addr s).toNat < 2048 → t.mbr = s.memory.word (indexedAddress ix addr s).toNat) ∧
    (2048 ≤ (indexedAddress ix addr s).toNat → t.mbr = s.mbr)) ∧
  ((ind = true → (indexedAddress ix addr s).toNat < 2048) → exec (.ldr r ix ind addr) s = .next t →
    t.mar = finalAddress ix ind addr s ∧
    ((finalAddress ix ind addr s).toNat < 2048 → t.mbr = s.memory.word (finalAddress ix ind addr s).toNat) ∧
    (2048 ≤ (finalAddress ix ind addr s).toNat →
      t.mbr = if ind then s.memory.word (indexedAddress ix addr s).toNat else s.mbr)) ∧
  ((ind = true → (indexedAddress ix addr s).toNat < 2048) → exec (.str r ix ind addr) s = .next t →
    t.mar = finalAddress ix ind addr s ∧ t.mbr = s.gpr r) ∧
  (ind = true → 2048 ≤ (indexedAddress ix addr s).toNat →
    (exec (.ldr r ix ind addr) s = .next t ∨ exec (.str r ix ind addr) s = .next t) →
    t.mar = indexedAddress ix addr s ∧ t.mbr = s.mbr) ∧
  (exec (.ldx (some x) ind addr) s = .next t →
    t.mar = finalAddress none ind addr s ∧
    ((finalAddress none ind addr s).toNat < 2048 → t.mbr = s.memory.word (finalAddress none ind addr s).toNat) ∧
    (2048 ≤ (finalAddress none ind addr s).toNat → t.mbr = s.memory.word (indexedAddress none addr s).toNat)) ∧
  (exec (.stx (some x) ind addr) s = .next t → t.mar = finalAddress none ind addr s ∧ t.mbr = s.ixr x)

/-- R38: no instruction reads or writes CC, whatever the parameter `CC_BIT_MEANING` is, and it changes only by reset and by a
debug write. The spec's decision D17 (log entry 5). -/
def Obligations.CcIsReadAndWrittenByNoInstruction : Prop :=
  (∀ (i : Instr) (s t : State) (c : Nibble), exec i s = .next t →
    t.cc = s.cc ∧ exec i { s with cc := c } = .next { t with cc := c }) ∧
  (∀ (s t : State) (c : Nibble), step s = .next t →
    t.cc = s.cc ∧ step { s with cc := c } = .next { t with cc := c }) ∧
  (∀ (Condition : Type) (ccBitMeaning : Fin 4 → Condition) (s t : State), step s = .next t →
    t.conditions ccBitMeaning = s.conditions ccBitMeaning) ∧
  (∀ (op : HostOp) (s : State), (hostOp op s).2.cc ≠ s.cc → op = .resetAll ∨ ∃ v, op = .setReg .cc v)

/-- R33: which instructions write a general register, and that LDX, STX and HLT read none and no address computation does. -/
def Obligations.GeneralRegistersAreUsedOnlyAsStated : Prop :=
  (∀ (i : Instr) (s t : State) (r : Gpr), exec i s = .next t → t.gpr r ≠ s.gpr r →
    ∃ ix ind addr, i = .ldr r ix ind addr ∨ i = .lda r ix ind addr) ∧
  (∀ (i : Instr) (s t : State) (r : Gpr) (v : Word),
    (∀ r' ix ind addr, i ≠ .ldr r' ix ind addr ∧ i ≠ .str r' ix ind addr ∧ i ≠ .lda r' ix ind addr) →
    exec i s = .next t → exec i (s.setGpr r v) = .next (t.setGpr r v)) ∧
  (∀ (ix : Option Ixr) (ind : Bool) (addr : BitVec 5) (s : State) (r : Gpr) (v : Word),
    indexedAddress ix addr (s.setGpr r v) = indexedAddress ix addr s ∧
    finalAddress ix ind addr (s.setGpr r v) = finalAddress ix ind addr s)

/-- R35, R77: an index register changes only by LDX that names it, and a word of memory only by STR or STX at its effective
address. -/
def Obligations.OnlyLdxAndStoresChangeIndexRegistersAndMemory : Prop :=
  (∀ (i : Instr) (s t : State) (x : Ixr), exec i s = .next t → t.ixr x ≠ s.ixr x →
    ∃ ind addr, i = .ldx (some x) ind addr) ∧
  (∀ (i : Instr) (s t : State) (k : Nat), exec i s = .next t → t.memory.word k ≠ s.memory.word k →
    k < 2048 ∧
    ((∃ r ix ind addr, i = .str r ix ind addr ∧ k = (finalAddress ix ind addr s).toNat) ∨
      ∃ x ind addr, i = .stx (some x) ind addr ∧ k = (finalAddress none ind addr s).toNat))

/-- R42: MFR is written by the two faults of the execute phase and, through the host, by a debug write and by reset.
That a completing instruction does not clear it is the spec's decision D12 (log entry 11). The code of the second is a
parameter (log entry 1). -/
def Obligations.MfrIsWrittenByTheTwoFaultsOnly : Prop :=
  (∀ (i : Instr) (s t : State), exec i s = .next t → t.mfr ≠ s.mfr →
    (illegalInstr i = true ∧ t.mfr = 0b0100#4) ∨
      ((∃ ind addr, i = .ldx none ind addr ∨ i = .stx none ind addr) ∧ t.mfr = mfrIllegalOperand)) ∧
  (∀ (op : HostOp) (s : State), (hostOp op s).2.mfr ≠ s.mfr →
    op = .resetAll ∨ (∃ v, op = .setReg .mfr v) ∨ op = .executeOneStep ∨ ∃ n, op = .runUntilHaltedOrCeiling n)

/-- R43: what sets HALTED, and that nothing but reset-all clears it. That halt sets HALTED and that no other low-level
request looks at it are the decisions D26 and D19 (log entry 17). HALTED after reset is the decision D3 of the spec (log
entry 14), and the step of a halted machine is D11 (log entry 10). -/
def Obligations.OnlyResetLeavesHalted : Prop :=
  State.reset.halted = false ∧
  (∀ (op : HostOp) (s : State), s.halted = true → op ≠ .resetAll → (hostOp op s).2.halted = true) ∧
  (∀ (op : HostOp) (s : State), s.halted = false → (hostOp op s).2.halted = true →
    op = .halt ∨ op = .executeOneStep ∨ ∃ n, op = .runUntilHaltedOrCeiling n) ∧
  (∀ (i : Instr) (s t : State), exec i s = .next t → s.halted = false →
    (t.halted = true ↔
      (i = .hlt ∨ illegalInstr i = true ∨ ∃ ind addr, i = .ldx none ind addr ∨ i = .stx none ind addr))) ∧
  (∀ s : State, s.halted = true → step s = .next s) ∧
  (∀ s : State, hostOp .isHalted s = (.flag s.halted, s))

/-- R164: a CPU operation leaves nothing pending where nothing was pending, and raises no protocol fault, whatever was
pending. That a latch replaces what was pending is the spec's decision D4 (log entry 8). -/
def Obligations.StepsKeepTheProtocol : Prop :=
  (∀ s t : State, step s = .next t → s.memory.pending = .none → t.memory.pending = .none) ∧
  (∀ (s : State) (c : RunCeiling) (a v ix ind addr : Int), s.memory.pending = .none →
    ∀ op ∈ [HostOp.fetchOneWord, .readWord a, .writeWord a v, .computeEffectiveAddress ix ind addr, .executeOneStep,
      .runUntilHaltedOrCeiling c], (hostOp op s).2.memory.pending = .none) ∧
  (∀ s : State, stepOutcome s ≠ .memFault .protocol) ∧
  (∀ (s : State) (c : RunCeiling), (run c s).1 ≠ .memFault .protocol) ∧
  (∀ (s : State) (a v ix ind addr : Int),
    ∀ op ∈ [HostOp.fetchOneWord, .readWord a, .writeWord a v, .computeEffectiveAddress ix ind addr],
      (hostOp op s).1 ≠ .memFault .protocol)

/-- R83: a word stored at the address the next fetch reads, by STR, by STX or by a poke of the host, is the word that
fetch returns. Visibility of a store without a fence is the decision D25 of the spec (log entry 25). -/
def Obligations.AStoreIsSeenByTheNextFetch : Prop :=
  (∀ (r : Gpr) (ix : Option Ixr) (ind : Bool) (addr : BitVec 5) (s t : State), s.memory.wf = true →
    (ind = true → (indexedAddress ix addr s).toNat < 2048) → (finalAddress ix ind addr s).toNat < 2048 →
    finalAddress ix ind addr s = s.pc → exec (.str r ix ind addr) s = .next t →
    ∃ u, fetch t = .ok (s.gpr r) u ∧ u.ir = s.gpr r ∧ u.memory.word s.pc.toNat = s.gpr r) ∧
  (∀ (x : Ixr) (ind : Bool) (addr : BitVec 5) (s t : State), s.memory.wf = true →
    (finalAddress none ind addr s).toNat < 2048 → finalAddress none ind addr s = s.pc →
    exec (.stx (some x) ind addr) s = .next t →
    ∃ u, fetch t = .ok (s.ixr x) u ∧ u.ir = s.ixr x ∧ u.memory.word s.pc.toNat = s.ixr x) ∧
  (∀ (v : Word) (s : State), s.memory.wf = true → s.pc.toNat < 2048 →
    ∃ t u, hostOp (.poke s.pc.toNat v.toNat) s = (.ok, t) ∧ fetch t = .ok v u ∧ u.ir = v)

/-- The invariant of a machine driven by steps (`State.Inv`: R42, R164, R261, R270, and the model's own canonical form
of memory, log entry 15) is kept by every step from every state that has it. That a MemFault keeps MFR and HALTED is the
decision D8 of the spec (log entry 6). -/
def Obligations.StepKeepsTheInvariant : Prop := ∀ s t : State, s.Inv → step s = .next t → t.Inv

/-- The state after reset has the invariant. That nothing is pending after reset is the spec's decision D3 (R47; log entry
14); the canonical form of memory in `State.Inv` is the model's own (log entry 15). -/
def Obligations.ResetHasTheInvariant : Prop := State.reset.Inv

/-- Every request of the host keeps the canonical form of memory, and with it every sequence of requests. The form is the
model's own (log entry 15). -/
def Obligations.HostOperationsKeepMemoryCanonical : Prop :=
  (∀ (op : HostOp) (s : State), s.memory.wf = true → (hostOp op s).2.memory.wf = true) ∧
  (∀ (ops : List HostOp) (s : State), s.memory.wf = true → (hostOps ops s).memory.wf = true)

/-- R161: a run is its loop with `RUN_CEILING` steps left. A halted machine ends the loop before the ceiling does; a RUNNING
one with no step left has reached its ceiling; with steps left it takes one step, and ends with that step's `MemFault` or
goes on. So what is reported says how the machine was left, and a loop that reached its ceiling is continued by a further
one. The tests' order and the stop at a `MemFault` are the spec's decisions D18 and D29 (log entries 2, 18); that a
`MemFault` leaves the machine RUNNING is its decision D8 (log entry 6), and the mark is the model's own (log entry 20). -/
def Obligations.RunReportsAndContinues : Prop :=
  (∀ (c : RunCeiling) (s : State), run c s = runSteps c.val s) ∧
  (∀ (n : Nat) (s : State), s.halted = true → runSteps n s = (.halted, s)) ∧
  (∀ s : State, s.halted = false → runSteps 0 s = (.ceilingReached, s)) ∧
  (∀ (n : Nat) (s t : State) (f : Fault), s.halted = false → step s = .next t → stepOutcome s = .memFault f →
    runSteps (n + 1) s = (.memFault f, t)) ∧
  (∀ (n : Nat) (s t : State), s.halted = false → step s = .next t → (∀ f, stepOutcome s ≠ .memFault f) →
    runSteps (n + 1) s = runSteps n t) ∧
  (∀ (n : Nat) (s : State), (runSteps n s).1 = .halted → (runSteps n s).2.halted = true) ∧
  (∀ (n : Nat) (s : State), (runSteps n s).1 = .ceilingReached → (runSteps n s).2.halted = false) ∧
  (∀ (n : Nat) (s t : State) (f : Fault), runSteps n s = (.memFault f, t) →
    t.halted = false ∧ t.memFault = s.memFault.or (some f)) ∧
  (∀ (n m : Nat) (s : State), (runSteps n s).1 = .ceilingReached → runSteps (n + m) s = runSteps m (runSteps n s).2)

/-- R302, R225: from PC = p, p at most 2047, at most 2048 - p steps complete before a step ends in a halt or a
`MemFault`: no run with a ceiling above that number reaches it, from any state. That a run ends at its first MemFault is
the decision D29 of the spec (log entry 18). -/
def Obligations.EveryRunStopsWithinTheMemory : Prop :=
  ∀ (s : State) (c : RunCeiling), s.pc.toNat ≤ 2047 → 2048 - s.pc.toNat < c.val → (run c s).1 ≠ .ceilingReached

/-! ### The host's operations -/

/-- R241: reset-all puts every register, every word of memory, HALTED and the pending flag in its reset value, and is the only
way out of HALTED. (HALTED, PENDING and LATCHED_ADDR after reset are the spec's decision D3, log entry 14.) -/
def Obligations.ResetAllGivesTheAllZeroState : Prop :=
  ∀ s : State, ∃ t, hostOp .resetAll s = (.ok, t) ∧ t = State.reset ∧
  (∀ x : RegName, t.reg x = 0) ∧ (∀ a, t.memory.word a = 0) ∧ t.halted = false ∧ t.memory.pending = .none ∧
  t.memory.latchedAddr = 0 ∧
  (∀ (op : HostOp) (u : State), u.halted = true → (hostOp op u).2.halted = false → op = .resetAll)

/-- R243: read-word goes through MAR, MBR and the two-phase protocol. R244: so does write-word. The use of MAR and MBR
is the decision D7 of the spec (log entry 7), the state after a refused latch is D8 (log entry 6), the mark is the
model's own (log entry 20), and which of two bad arguments is named is left open (log entry 26). -/
def Obligations.ReadWordAndWriteWord : Prop :=
  ∀ s : State, s.memory.wf = true →
  (∀ a : Nat, a < 2048 → ∃ t, hostOp (.readWord a) s = (.word (s.memory.word a), t) ∧
    t.mar.toNat = a ∧ t.mbr = s.memory.word a ∧ sameWords s t ∧ sameGprs s t ∧ sameIxrs s t ∧ sameControl s t) ∧
  (∀ a : Nat, 2048 ≤ a → a < 4096 →
    hostOp (.readWord a) s =
      (.memFault (.range a), { s with mar := BitVec.ofNat 12 a, memFault := s.memFault.or (some (.range a)) })) ∧
  (∀ a : Int, (a < 0 ∨ 4096 ≤ a) → hostOp (.readWord a) s = (.memFault (.range a), s)) ∧
  (∀ (a : Nat) (v : Word), a < 2048 → ∃ t, hostOp (.writeWord a v.toNat) s = (.ok, t) ∧
    t.mar.toNat = a ∧ t.mbr = v ∧ t.memory.word a = v ∧ (∀ k, k ≠ a → t.memory.word k = s.memory.word k) ∧
    sameGprs s t ∧ sameIxrs s t ∧ sameControl s t) ∧
  (∀ (a : Nat) (v : Word), 2048 ≤ a → a < 4096 →
    hostOp (.writeWord a v.toNat) s =
      (.memFault (.range a),
        { s with mar := BitVec.ofNat 12 a, mbr := v, memFault := s.memFault.or (some (.range a)) })) ∧
  (∀ a v : Int, (a < 0 ∨ 4096 ≤ a ∨ v < 0 ∨ 65536 ≤ v) →
    ∃ b, ((b = a ∧ (a < 0 ∨ 4096 ≤ a)) ∨ (b = v ∧ (v < 0 ∨ 65536 ≤ v))) ∧
      hostOp (.writeWord a v) s = (.memFault (.range b), s)) ∧
  (∀ a v : Int, (a < 0 ∨ 4096 ≤ a) → 0 ≤ v → v < 65536 → hostOp (.writeWord a v) s = (.memFault (.range a), s)) ∧
  (∀ a v : Int, 0 ≤ a → a < 4096 → (v < 0 ∨ 65536 ≤ v) → hostOp (.writeWord a v) s = (.memFault (.range v), s))

/-- R245: compute-effective-address; and the source's example. The validation of its arguments is the spec's decision D28
(log entry 17); an argument it names is out of its range, and which one where several are is left open (log entry 26). That
a range fault of the indirection read leaves the state as it then was is the decision D8 (log entry 6), and its mark is the
model's own (log entry 20). -/
def Obligations.ComputeEffectiveAddressOfTheHost : Prop :=
  (∀ (ix : Option Ixr) (ind : Bool) (addr : BitVec 5) (s : State),
    hostOp (.computeEffectiveAddress (ixNumber ix) (indirectNumber ind) addr.toNat) s =
      match eaIndexed ix ind addr s with
      | .ok e t => (.address e, t)
      | .memFault f t => (.memFault f, recordMemFault f t)) ∧
  (∀ (a b c : Int) (s : State), (a < 0 ∨ 4 ≤ a ∨ b < 0 ∨ 2 ≤ b ∨ c < 0 ∨ 32 ≤ c) →
    ∃ d, ((d = a ∧ (a < 0 ∨ 4 ≤ a)) ∨ (d = b ∧ (b < 0 ∨ 2 ≤ b)) ∨ (d = c ∧ (c < 0 ∨ 32 ≤ c))) ∧
      hostOp (.computeEffectiveAddress a b c) s = (.memFault (.range d), s)) ∧
  (∀ (a b c : Int) (s : State), (a < 0 ∨ 4 ≤ a) → (0 ≤ b ∧ b < 2) → (0 ≤ c ∧ c < 32) →
    hostOp (.computeEffectiveAddress a b c) s = (.memFault (.range a), s)) ∧
  (∀ (a b c : Int) (s : State), (0 ≤ a ∧ a < 4) → (b < 0 ∨ 2 ≤ b) → (0 ≤ c ∧ c < 32) →
    hostOp (.computeEffectiveAddress a b c) s = (.memFault (.range b), s)) ∧
  (∀ (a b c : Int) (s : State), (0 ≤ a ∧ a < 4) → (0 ≤ b ∧ b < 2) → (c < 0 ∨ 32 ≤ c) →
    hostOp (.computeEffectiveAddress a b c) s = (.memFault (.range c), s)) ∧
  (∀ s : State, s.ixr1 = 5 → s.memory.word 17 = 23 →
    (hostOp (.computeEffectiveAddress 0 0 12) s).1 = .address 12 ∧
    (hostOp (.computeEffectiveAddress 1 0 12) s).1 = .address 17 ∧
    (hostOp (.computeEffectiveAddress 1 1 12) s).1 = .address 23)

/-- R242, R246 to R249, R252: the remaining requests: fetch-one-word, execute-one-step, run, halt, is-halted and the snapshot
of a register. `halt` writing HALTED alone and `fetch-one-word` being exactly the fetch are the spec's decisions D26 and
D32 (log entry 17); the state after a faulting fetch-one-word is D8 (log entry 6) and the mark the model's own (log entry
20). R72: a poked value that is no word is refused; which of two bad arguments the fault names is left open
(log entry 26). -/
def Obligations.TheRemainingHostRequests : Prop :=
  ∀ s : State,
  (s.pc.toNat < 2048 → ∃ t, fetch s = .ok (s.memory.word s.pc.toNat) t ∧
    hostOp .fetchOneWord s = (.word (s.memory.word s.pc.toNat), t)) ∧
  (2048 ≤ s.pc.toNat →
    hostOp .fetchOneWord s =
      (.memFault (.range s.pc.toNat), { s with mar := s.pc, memFault := s.memFault.or (some (.range s.pc.toNat)) })) ∧
  (∀ t, step s = .next t → hostOp .executeOneStep s = (.stepped (stepOutcome s), t)) ∧
  (∀ c, hostOp (.runUntilHaltedOrCeiling c) s = (.ran (run c s).1, (run c s).2)) ∧
  hostOp .halt s = (.ok, { s with halted := true }) ∧
  hostOp .isHalted s = (.flag s.halted, s) ∧
  (∀ x, hostOp (.snapshot x) s = (.register (s.reg x), s) ∧ s.reg x < 2 ^ x.width) ∧
  (∀ a v : Int, 0 ≤ a → a < 2048 → (v < 0 ∨ 65536 ≤ v) → hostOp (.poke a v) s = (.memFault (.range v), s)) ∧
  (∀ a v : Int, (a < 0 ∨ 2048 ≤ a) → (v < 0 ∨ 65536 ≤ v) →
    hostOp (.poke a v) s = (.memFault (.range a), s) ∨ hostOp (.poke a v) s = (.memFault (.range v), s))

/-- R9, R253: a debug write masks its value to the register's width and changes nothing else. That the host has it is the
spec's decision D22 (log entry 17). -/
def Obligations.DebugWriteMasksToTheWidth : Prop :=
  ∀ (s : State) (x : RegName) (v : Int),
  ((hostOp (.setReg x v) s).2.reg x : Int) = v % 2 ^ x.width ∧
  (∀ y, y ≠ x → (hostOp (.setReg x v) s).2.reg y = s.reg y) ∧
  (hostOp (.setReg x v) s).1 = .ok ∧ (hostOp (.setReg x v) s).2.halted = s.halted ∧
  (hostOp (.setReg x v) s).2.memory = s.memory ∧ (hostOp (.setReg x v) s).2.memFault = s.memFault

/-- R254, R62, R63, R66, R67: the raw operations of the Memory as requests of the host. One that succeeds changes the Memory
and nothing else: a latch its session state, a transfer what its rule says. A latch over a pending operation is the spec's
decision D4 (log entry 8). -/
def Obligations.RawMemoryRequestsChangeTheMemoryOnly : Prop :=
  ∀ s : State, s.memory.wf = true →
  (∀ a : Nat, a < 2048 →
    hostOp (.latchRead a) s = (.ok, { s with memory := ⟨s.memory.cells, .read, BitVec.ofNat 11 a⟩ }) ∧
    hostOp (.latchWrite a) s = (.ok, { s with memory := ⟨s.memory.cells, .write, BitVec.ofNat 11 a⟩ })) ∧
  (s.memory.pending = .read →
    hostOp .transferRead s =
      (.word (s.memory.word s.memory.latchedAddr.toNat),
        { s with memory := ⟨s.memory.cells, .none, s.memory.latchedAddr⟩ })) ∧
  (s.memory.pending = .write → ∀ v : Word,
    ∃ m, hostOp (.transferWrite v) s = (.ok, { s with memory := m }) ∧ m.word s.memory.latchedAddr.toNat = v ∧
      (∀ k, k ≠ s.memory.latchedAddr.toNat → m.word k = s.memory.word k) ∧ m.pending = .none ∧
      m.latchedAddr = s.memory.latchedAddr)
end

