-- ==== Sys2Proof/Laws/State.lean ====
section
/-! SUPPORT. One lemma per field per update of State, so that no later proof unfolds an update. -/

namespace Sys2Proof.Machine

section
variable (s : State) (r r' : Gpr) (x x' : Ixr) (v : Word) (f : Fault)

@[simp] theorem setGpr_pc : (s.setGpr r v).pc = s.pc := by cases r <;> rfl
@[simp] theorem setGpr_mar : (s.setGpr r v).mar = s.mar := by cases r <;> rfl
@[simp] theorem setGpr_mbr : (s.setGpr r v).mbr = s.mbr := by cases r <;> rfl
@[simp] theorem setGpr_ir : (s.setGpr r v).ir = s.ir := by cases r <;> rfl
@[simp] theorem setGpr_cc : (s.setGpr r v).cc = s.cc := by cases r <;> rfl
@[simp] theorem setGpr_mfr : (s.setGpr r v).mfr = s.mfr := by cases r <;> rfl
@[simp] theorem setGpr_halted : (s.setGpr r v).halted = s.halted := by cases r <;> rfl
@[simp] theorem setGpr_memory : (s.setGpr r v).memory = s.memory := by cases r <;> rfl
@[simp] theorem setGpr_memFault : (s.setGpr r v).memFault = s.memFault := by cases r <;> rfl
@[simp] theorem setGpr_ixr1 : (s.setGpr r v).ixr1 = s.ixr1 := by cases r <;> rfl
@[simp] theorem setGpr_ixr2 : (s.setGpr r v).ixr2 = s.ixr2 := by cases r <;> rfl
@[simp] theorem setGpr_ixr3 : (s.setGpr r v).ixr3 = s.ixr3 := by cases r <;> rfl
@[simp] theorem setIxr_pc : (s.setIxr x v).pc = s.pc := by cases x <;> rfl
@[simp] theorem setIxr_mar : (s.setIxr x v).mar = s.mar := by cases x <;> rfl
@[simp] theorem setIxr_mbr : (s.setIxr x v).mbr = s.mbr := by cases x <;> rfl
@[simp] theorem setIxr_ir : (s.setIxr x v).ir = s.ir := by cases x <;> rfl
@[simp] theorem setIxr_cc : (s.setIxr x v).cc = s.cc := by cases x <;> rfl
@[simp] theorem setIxr_mfr : (s.setIxr x v).mfr = s.mfr := by cases x <;> rfl
@[simp] theorem setIxr_halted : (s.setIxr x v).halted = s.halted := by cases x <;> rfl
@[simp] theorem setIxr_memory : (s.setIxr x v).memory = s.memory := by cases x <;> rfl
@[simp] theorem setIxr_memFault : (s.setIxr x v).memFault = s.memFault := by cases x <;> rfl
@[simp] theorem setIxr_gpr0 : (s.setIxr x v).gpr0 = s.gpr0 := by cases x <;> rfl
@[simp] theorem setIxr_gpr1 : (s.setIxr x v).gpr1 = s.gpr1 := by cases x <;> rfl
@[simp] theorem setIxr_gpr2 : (s.setIxr x v).gpr2 = s.gpr2 := by cases x <;> rfl
@[simp] theorem setIxr_gpr3 : (s.setIxr x v).gpr3 = s.gpr3 := by cases x <;> rfl
@[simp] theorem recordMemFault_pc : (recordMemFault f s).pc = s.pc := rfl
@[simp] theorem recordMemFault_mar : (recordMemFault f s).mar = s.mar := rfl
@[simp] theorem recordMemFault_mbr : (recordMemFault f s).mbr = s.mbr := rfl
@[simp] theorem recordMemFault_ir : (recordMemFault f s).ir = s.ir := rfl
@[simp] theorem recordMemFault_cc : (recordMemFault f s).cc = s.cc := rfl
@[simp] theorem recordMemFault_mfr : (recordMemFault f s).mfr = s.mfr := rfl
@[simp] theorem recordMemFault_halted : (recordMemFault f s).halted = s.halted := rfl
@[simp] theorem recordMemFault_memory : (recordMemFault f s).memory = s.memory := rfl
@[simp] theorem recordMemFault_gpr0 : (recordMemFault f s).gpr0 = s.gpr0 := rfl
@[simp] theorem recordMemFault_gpr1 : (recordMemFault f s).gpr1 = s.gpr1 := rfl
@[simp] theorem recordMemFault_gpr2 : (recordMemFault f s).gpr2 = s.gpr2 := rfl
@[simp] theorem recordMemFault_gpr3 : (recordMemFault f s).gpr3 = s.gpr3 := rfl
@[simp] theorem recordMemFault_ixr1 : (recordMemFault f s).ixr1 = s.ixr1 := rfl
@[simp] theorem recordMemFault_ixr2 : (recordMemFault f s).ixr2 = s.ixr2 := rfl
@[simp] theorem recordMemFault_ixr3 : (recordMemFault f s).ixr3 = s.ixr3 := rfl
@[simp] theorem raiseIllegalOpcode_pc : (raiseIllegalOpcode s).pc = s.pc := rfl
@[simp] theorem raiseIllegalOpcode_mar : (raiseIllegalOpcode s).mar = s.mar := rfl
@[simp] theorem raiseIllegalOpcode_mbr : (raiseIllegalOpcode s).mbr = s.mbr := rfl
@[simp] theorem raiseIllegalOpcode_ir : (raiseIllegalOpcode s).ir = s.ir := rfl
@[simp] theorem raiseIllegalOpcode_cc : (raiseIllegalOpcode s).cc = s.cc := rfl
@[simp] theorem raiseIllegalOpcode_memory : (raiseIllegalOpcode s).memory = s.memory := rfl
@[simp] theorem raiseIllegalOpcode_memFault : (raiseIllegalOpcode s).memFault = s.memFault := rfl
@[simp] theorem raiseIllegalOpcode_gpr0 : (raiseIllegalOpcode s).gpr0 = s.gpr0 := rfl
@[simp] theorem raiseIllegalOpcode_gpr1 : (raiseIllegalOpcode s).gpr1 = s.gpr1 := rfl
@[simp] theorem raiseIllegalOpcode_gpr2 : (raiseIllegalOpcode s).gpr2 = s.gpr2 := rfl
@[simp] theorem raiseIllegalOpcode_gpr3 : (raiseIllegalOpcode s).gpr3 = s.gpr3 := rfl
@[simp] theorem raiseIllegalOpcode_ixr1 : (raiseIllegalOpcode s).ixr1 = s.ixr1 := rfl
@[simp] theorem raiseIllegalOpcode_ixr2 : (raiseIllegalOpcode s).ixr2 = s.ixr2 := rfl
@[simp] theorem raiseIllegalOpcode_ixr3 : (raiseIllegalOpcode s).ixr3 = s.ixr3 := rfl
@[simp] theorem raiseIllegalOperand_pc : (raiseIllegalOperand s).pc = s.pc := rfl
@[simp] theorem raiseIllegalOperand_mar : (raiseIllegalOperand s).mar = s.mar := rfl
@[simp] theorem raiseIllegalOperand_mbr : (raiseIllegalOperand s).mbr = s.mbr := rfl
@[simp] theorem raiseIllegalOperand_ir : (raiseIllegalOperand s).ir = s.ir := rfl
@[simp] theorem raiseIllegalOperand_cc : (raiseIllegalOperand s).cc = s.cc := rfl
@[simp] theorem raiseIllegalOperand_memory : (raiseIllegalOperand s).memory = s.memory := rfl
@[simp] theorem raiseIllegalOperand_memFault : (raiseIllegalOperand s).memFault = s.memFault := rfl
@[simp] theorem raiseIllegalOperand_gpr0 : (raiseIllegalOperand s).gpr0 = s.gpr0 := rfl
@[simp] theorem raiseIllegalOperand_gpr1 : (raiseIllegalOperand s).gpr1 = s.gpr1 := rfl
@[simp] theorem raiseIllegalOperand_gpr2 : (raiseIllegalOperand s).gpr2 = s.gpr2 := rfl
@[simp] theorem raiseIllegalOperand_gpr3 : (raiseIllegalOperand s).gpr3 = s.gpr3 := rfl
@[simp] theorem raiseIllegalOperand_ixr1 : (raiseIllegalOperand s).ixr1 = s.ixr1 := rfl
@[simp] theorem raiseIllegalOperand_ixr2 : (raiseIllegalOperand s).ixr2 = s.ixr2 := rfl
@[simp] theorem raiseIllegalOperand_ixr3 : (raiseIllegalOperand s).ixr3 = s.ixr3 := rfl
@[simp] theorem recordMemFault_memFault : (recordMemFault f s).memFault = s.memFault.or (some f) := rfl
@[simp] theorem raiseIllegalOpcode_mfr : (raiseIllegalOpcode s).mfr = mfrIllegalOpcode := rfl
@[simp] theorem raiseIllegalOpcode_halted : (raiseIllegalOpcode s).halted = true := rfl
@[simp] theorem raiseIllegalOperand_mfr : (raiseIllegalOperand s).mfr = mfrIllegalOperand := rfl
@[simp] theorem raiseIllegalOperand_halted : (raiseIllegalOperand s).halted = true := rfl

@[simp] theorem gpr_setGpr_same : (s.setGpr r v).gpr r = v := by cases r <;> rfl
@[simp] theorem ixr_setIxr_same : (s.setIxr x v).ixr x = v := by cases x <;> rfl
@[simp] theorem ixr_setGpr : (s.setGpr r v).ixr x = s.ixr x := by cases r <;> rfl
@[simp] theorem gpr_setIxr : (s.setIxr x v).gpr r = s.gpr r := by cases x <;> rfl

theorem gpr_setGpr_ne (h : r' ≠ r) : (s.setGpr r v).gpr r' = s.gpr r' := by
  cases r <;> cases r' <;> first | rfl | exact absurd rfl h

theorem ixr_setIxr_ne (h : x' ≠ x) : (s.setIxr x v).ixr x' = s.ixr x' := by
  cases x <;> cases x' <;> first | rfl | exact absurd rfl h

@[simp] theorem gpr_recordMemFault : (recordMemFault f s).gpr r = s.gpr r := by cases r <;> rfl
@[simp] theorem ixr_recordMemFault : (recordMemFault f s).ixr x = s.ixr x := by cases x <;> rfl
@[simp] theorem gpr_raiseIllegalOpcode : (raiseIllegalOpcode s).gpr r = s.gpr r := by cases r <;> rfl
@[simp] theorem ixr_raiseIllegalOpcode : (raiseIllegalOpcode s).ixr x = s.ixr x := by cases x <;> rfl
@[simp] theorem gpr_raiseIllegalOperand : (raiseIllegalOperand s).gpr r = s.gpr r := by cases r <;> rfl
@[simp] theorem ixr_raiseIllegalOperand : (raiseIllegalOperand s).ixr x = s.ixr x := by cases x <;> rfl

end

/-- The parameter `MFR_ILLEGAL_OPERAND` is not 0, whatever the free constant is (00_scope.md R6). -/
theorem mfrIllegalOperand_ne_zero : mfrIllegalOperand ≠ 0 := by
  unfold mfrIllegalOperand
  split
  · decide
  · assumption

theorem mfrIllegalOpcode_ne_zero : mfrIllegalOpcode ≠ 0 := by decide

end Sys2Proof.Machine
end

