-- ==== Sys2Proof/Laws/Memory.lean ====
section
/-! SUPPORT. The laws of memory: read after write, what a write leaves alone, the canonical form, and each operation of the
Memory in one lemma. -/

namespace Sys2Proof.Machine

/-! ### Cell lists -/

theorem cellsWf_cons (lo a : Nat) (w : Word) (rest : List (Nat × Word)) :
    cellsWf lo ((a, w) :: rest) = true ↔ lo ≤ a ∧ a < Config.memWords ∧ w ≠ 0 ∧ cellsWf (a + 1) rest = true := by
  simp [cellsWf, and_assoc]

theorem cellsWf_mono {lo lo' : Nat} (c : List (Nat × Word)) (hlo : lo' ≤ lo) (h : cellsWf lo c = true) :
    cellsWf lo' c = true := by
  cases c with
  | nil => rfl
  | cons p rest =>
    obtain ⟨a, w⟩ := p
    rw [cellsWf_cons] at h ⊢
    exact ⟨by omega, h.2⟩

/-- Below the first listed address everything reads as 0. -/
theorem readCells_below {lo : Nat} (c : List (Nat × Word)) (h : cellsWf lo c = true) (k : Nat) (hk : k < lo) :
    readCells c k = 0 := by
  induction c generalizing lo with
  | nil => rfl
  | cons p rest ih =>
    obtain ⟨a, w⟩ := p
    rw [cellsWf_cons] at h
    rw [readCells, if_neg (by omega)]
    exact ih h.2.2.2 (by omega)

theorem readCells_writeCells_ne (c : List (Nat × Word)) (k j : Nat) (v : Word) (hj : j ≠ k) :
    readCells (writeCells c k v) j = readCells c j := by
  induction c with
  | nil => by_cases hv : v = 0#16 <;> simp [writeCells, readCells, hv, hj]
  | cons p rest ih =>
    obtain ⟨a, w⟩ := p
    by_cases h1 : k < a
    · by_cases hv : v = 0#16 <;> simp [writeCells, readCells, h1, hv, hj]
    · by_cases h2 : k = a
      · subst h2
        by_cases hv : v = 0#16 <;> simp [writeCells, readCells, hv, hj]
      · simp [writeCells, readCells, h1, h2, ih]

theorem readCells_writeCells_same {lo : Nat} (c : List (Nat × Word)) (h : cellsWf lo c = true) (k : Nat) (v : Word) :
    readCells (writeCells c k v) k = v := by
  induction c generalizing lo with
  | nil => by_cases hv : v = 0#16 <;> simp [writeCells, readCells, hv]
  | cons p rest ih =>
    obtain ⟨a, w⟩ := p
    rw [cellsWf_cons] at h
    by_cases h1 : k < a
    · by_cases hv : v = 0#16
      · simp [writeCells, readCells, h1, hv, Nat.ne_of_lt h1, readCells_below rest h.2.2.2 k (by omega)]
      · simp [writeCells, readCells, h1, hv]
    · by_cases h2 : k = a
      · subst h2
        by_cases hv : v = 0#16
        · simp [writeCells, hv, readCells_below rest h.2.2.2 k (by omega)]
        · simp [writeCells, readCells, hv]
      · simp [writeCells, readCells, h1, h2, ih h.2.2.2]

theorem cellsWf_writeCells {lo : Nat} (c : List (Nat × Word)) (h : cellsWf lo c = true) (k : Nat) (v : Word)
    (hlo : lo ≤ k) (hk : k < Config.memWords) : cellsWf lo (writeCells c k v) = true := by
  induction c generalizing lo with
  | nil =>
    by_cases hv : v = 0#16
    · simp [writeCells, hv, cellsWf]
    · simp [writeCells, hv, cellsWf, hlo, hk]
  | cons p rest ih =>
    obtain ⟨a, w⟩ := p
    have h' := h
    rw [cellsWf_cons] at h
    obtain ⟨ha, ham, hw, hr⟩ := h
    unfold writeCells
    split
    · split
      · exact h'
      · rw [cellsWf_cons, cellsWf_cons]
        exact ⟨hlo, hk, ‹_›, by omega, ham, hw, hr⟩
    · split
      · subst k
        split
        · exact cellsWf_mono rest (by omega) hr
        · rw [cellsWf_cons]
          exact ⟨hlo, hk, ‹_›, hr⟩
      · rw [cellsWf_cons]
        exact ⟨ha, ham, hw, ih hr (by omega)⟩

/-- In canonical form, equal contents are equal data. -/
theorem cells_ext {lo : Nat} (c d : List (Nat × Word)) (hc : cellsWf lo c = true) (hd : cellsWf lo d = true)
    (h : ∀ k, readCells c k = readCells d k) : c = d := by
  induction c generalizing lo d with
  | nil =>
    cases d with
    | nil => rfl
    | cons p rest =>
      obtain ⟨a, w⟩ := p
      rw [cellsWf_cons] at hd
      have := h a
      simp only [readCells, if_true] at this
      exact absurd this.symm hd.2.2.1
  | cons p rest ih =>
    obtain ⟨a, w⟩ := p
    cases d with
    | nil =>
      rw [cellsWf_cons] at hc
      have := h a
      simp only [readCells, if_true] at this
      exact absurd this hc.2.2.1
    | cons q rest' =>
      obtain ⟨b, u⟩ := q
      rw [cellsWf_cons] at hc hd
      obtain ⟨_, _, hw, hr⟩ := hc
      obtain ⟨_, _, hu, hr'⟩ := hd
      have hab : a = b := by
        by_contra hne
        rcases Nat.lt_or_gt_of_ne hne with hlt | hgt
        · have := h a
          rw [readCells, if_pos rfl, readCells, if_neg hne, readCells_below rest' hr' a (by omega)] at this
          exact hw this
        · have := h b
          rw [readCells, if_neg (Ne.symm hne), readCells_below rest hr b (by omega), readCells, if_pos rfl] at this
          exact hu this.symm
      subst hab
      have hwu : w = u := by simpa [readCells] using h a
      subst hwu
      have : rest = rest' := by
        refine ih rest' hr hr' fun k => ?_
        by_cases hk : k = a
        · subst hk
          rw [readCells_below rest hr k (by omega), readCells_below rest' hr' k (by omega)]
        · simpa [readCells, hk] using h k
      rw [this]

/-! ### The Memory -/

section
variable (m : Memory) (a b : Nat) (v : Word)

@[simp] theorem setWord_pending : (m.setWord a v).pending = m.pending := rfl
@[simp] theorem setWord_latchedAddr : (m.setWord a v).latchedAddr = m.latchedAddr := rfl

/-- Session state holds no word. -/
@[simp] theorem word_session (p : Pending) (l : BitVec 11) : Memory.word ⟨m.cells, p, l⟩ a = m.word a := rfl

@[simp] theorem wf_session (p : Pending) (l : BitVec 11) : Memory.wf ⟨m.cells, p, l⟩ = m.wf := rfl

theorem word_setWord_same (h : m.wf = true) : (m.setWord a v).word a = v := readCells_writeCells_same m.cells h a v

theorem word_setWord_ne (h : b ≠ a) : (m.setWord a v).word b = m.word b := readCells_writeCells_ne m.cells a b v h

/-- A word written inside the memory keeps the canonical form. -/
theorem wf_setWord (h : m.wf = true) (ha : a < Config.memWords) : (m.setWord a v).wf = true :=
  cellsWf_writeCells m.cells h a v (Nat.zero_le a) ha

theorem memWords_eq : Config.memWords = 2048 := rfl

theorem latched_toNat (ha : a < Config.memWords) : (BitVec.ofNat 11 a).toNat = a := by
  rw [memWords_eq] at ha
  rw [BitVec.toNat_ofNat]
  omega

/-- A latch keeps the contents, whatever it answers. -/
theorem latchRead_keeps (m' : Memory) (h : m.latchRead a = .ok m') : a < Config.memWords ∧ m'.cells = m.cells := by
  unfold Memory.latchRead at h
  split at h
  · cases h
    exact ⟨‹_›, rfl⟩
  · cases h

theorem latchWrite_keeps (m' : Memory) (h : m.latchWrite a = .ok m') : a < Config.memWords ∧ m'.cells = m.cells := by
  unfold Memory.latchWrite at h
  split at h
  · cases h
    exact ⟨‹_›, rfl⟩
  · cases h

/-- A read transfer that answers gives the latched word and clears what is pending. -/
theorem transferRead_ok (w : Word) (m' : Memory) (h : m.transferRead = .ok (w, m')) :
    m.pending = .read ∧ w = m.word m.latchedAddr.toNat ∧ m' = { m with pending := .none } := by
  unfold Memory.transferRead at h
  split at h <;> cases h
  exact ⟨‹_›, rfl, rfl⟩

/-- A write transfer that answers stores at the latched address and clears what is pending. -/
theorem transferWrite_ok (m' : Memory) (h : m.transferWrite v = .ok m') :
    m.pending = .write ∧ m' = { m.setWord m.latchedAddr.toNat v with pending := .none } := by
  unfold Memory.transferWrite at h
  split at h <;> cases h
  exact ⟨‹_›, rfl⟩

theorem latchedAddr_lt (l : BitVec 11) : l.toNat < Config.memWords := by
  have := l.isLt
  rw [memWords_eq]
  omega

end

/-! ### Every operation of the Memory keeps the canonical form -/

section
variable (m m' : Memory) (a : Nat) (v w : Word)

theorem latchRead_wf (hm : m.wf = true) (h : m.latchRead a = .ok m') : m'.wf = true := by
  rw [Memory.wf, (latchRead_keeps m a m' h).2]
  exact hm

theorem latchWrite_wf (hm : m.wf = true) (h : m.latchWrite a = .ok m') : m'.wf = true := by
  rw [Memory.wf, (latchWrite_keeps m a m' h).2]
  exact hm

theorem transferRead_wf (hm : m.wf = true) (h : m.transferRead = .ok (w, m')) : m'.wf = true := by
  rw [(transferRead_ok m w m' h).2.2]
  exact hm

theorem transferWrite_wf (hm : m.wf = true) (h : m.transferWrite v = .ok m') : m'.wf = true := by
  rw [(transferWrite_ok m v m' h).2]
  exact wf_setWord m _ v hm (latchedAddr_lt _)

theorem poke_wf (hm : m.wf = true) (h : m.poke a v = .ok m') : m'.wf = true := by
  unfold Memory.poke at h
  split at h <;> cases h
  exact wf_setWord m a v hm ‹_›

theorem reset_memory_wf : State.reset.memory.wf = true := rfl

end

end Sys2Proof.Machine
end

