-- ==== Sys2Proof/Laws/Cpu.lean ====
section
/-! SUPPORT. What each CPU operation comes to, in one lemma each: the memory accesses, the fetch, the effective address,
and from these each executed instruction. Later proofs cite these and do not unfold the operations. -/

namespace Sys2Proof.Machine

/-- The state after a CPU read at `a`, which lies in the memory (40_cpu_cycle.md R153). -/
def State.afterRead (a : Addr) (s : State) : State :=
  { s with
    mar := a
    mbr := s.memory.word a.toNat
    memory := ⟨s.memory.cells, .none, BitVec.ofNat 11 a.toNat⟩ }

/-- The state after a CPU write of `v` at `a`, which lies in the memory (40_cpu_cycle.md R154). -/
def State.afterWrite (a : Addr) (v : Word) (s : State) : State :=
  { s with
    mar := a
    mbr := v
    memory := ⟨(s.memory.setWord a.toNat v).cells, .none, BitVec.ofNat 11 a.toNat⟩ }

/-- The state after a fetch at PC, which lies in the memory (40_cpu_cycle.md R151). -/
def State.afterFetch (s : State) : State :=
  { s.afterRead s.pc with ir := s.memory.word s.pc.toNat, pc := s.pc + 1 }

theorem memRead_of_lt (a : Addr) (s : State) (h : a.toNat < Config.memWords) :
    memRead a s = .ok (s.memory.word a.toNat) (s.afterRead a) := by
  have hm : a.toNat % 2048 = a.toNat := Nat.mod_eq_of_lt h
  simp [memRead, Memory.latchRead, Memory.transferRead, h, hm, State.afterRead, Memory.word]

theorem memRead_of_ge (a : Addr) (s : State) (h : ¬ a.toNat < Config.memWords) :
    memRead a s = .memFault (.range a.toNat) { s with mar := a } := by
  simp [memRead, Memory.latchRead, h]

theorem memWrite_of_lt (a : Addr) (v : Word) (s : State) (h : a.toNat < Config.memWords) :
    memWrite a v s = .ok () (s.afterWrite a v) := by
  have hm : a.toNat % 2048 = a.toNat := Nat.mod_eq_of_lt h
  simp [memWrite, Memory.latchWrite, Memory.transferWrite, h, hm, State.afterWrite, Memory.setWord]

theorem memWrite_of_ge (a : Addr) (v : Word) (s : State) (h : ¬ a.toNat < Config.memWords) :
    memWrite a v s = .memFault (.range a.toNat) { s with mar := a, mbr := v } := by
  simp [memWrite, Memory.latchWrite, h]

theorem fetch_of_lt (s : State) (h : s.pc.toNat < Config.memWords) :
    fetch s = .ok (s.memory.word s.pc.toNat) s.afterFetch := by
  rw [fetch, memRead_of_lt _ _ h]
  rfl

theorem fetch_of_ge (s : State) (h : ¬ s.pc.toNat < Config.memWords) :
    fetch s = .memFault (.range s.pc.toNat) { s with mar := s.pc } := by
  rw [fetch, memRead_of_ge _ _ h]
  rfl

/-- The state after an effective address: a read where the indirect bit is set, else the state as it was. -/
def State.afterAddress (ind : Bool) (e : Addr) (s : State) : State := if ind then s.afterRead e else s

theorem indirect_of_ok (ind : Bool) (e : Addr) (s : State) (h : ind = true → e.toNat < Config.memWords) :
    indirect ind e s
      = .ok (if ind then pointerAddress (s.memory.word e.toNat) else e) (s.afterAddress ind e) := by
  cases ind
  · rfl
  · simp [indirect, memRead_of_lt _ _ (h rfl), Access.bind, State.afterAddress]

theorem indirect_of_fault (ind : Bool) (e : Addr) (s : State) (hi : ind = true) (h : ¬ e.toNat < Config.memWords) :
    indirect ind e s = .memFault (.range e.toNat) { s with mar := e } := by
  subst hi
  simp [indirect, memRead_of_ge _ _ h, Access.bind]

theorem eaIndexed_of_ok (ix : Option Ixr) (ind : Bool) (addr : BitVec 5) (s : State)
    (h : ind = true → (indexedAddress ix addr s).toNat < Config.memWords) :
    eaIndexed ix ind addr s
      = .ok (finalAddress ix ind addr s) (s.afterAddress ind (indexedAddress ix addr s)) := by
  rw [eaIndexed, indirect_of_ok _ _ _ h]
  rfl

theorem eaIndexed_of_fault (ix : Option Ixr) (ind : Bool) (addr : BitVec 5) (s : State) (hi : ind = true)
    (h : ¬ (indexedAddress ix addr s).toNat < Config.memWords) :
    eaIndexed ix ind addr s
      = .memFault (.range (indexedAddress ix addr s).toNat) { s with mar := indexedAddress ix addr s } :=
  indirect_of_fault ind _ s hi h

theorem eaUnindexed_eq (ind : Bool) (addr : BitVec 5) (s : State) :
    eaUnindexed ind addr s = eaIndexed none ind addr s := rfl

/-- The address field alone always lies in the memory. -/
theorem indexedAddress_none_lt (addr : BitVec 5) (s : State) :
    (indexedAddress none addr s).toNat < Config.memWords := by
  have := addr.isLt
  simp only [indexedAddress, BitVec.toNat_ofNat, memWords_eq]
  omega

/-! ### What an access leaves alone -/

section
variable (a : Addr) (v : Word) (s : State) (ind : Bool) (r : Gpr) (x : Ixr) (k : Nat)

@[simp] theorem afterRead_gpr0 : (s.afterRead a).gpr0 = s.gpr0 := rfl
@[simp] theorem afterRead_gpr1 : (s.afterRead a).gpr1 = s.gpr1 := rfl
@[simp] theorem afterRead_gpr2 : (s.afterRead a).gpr2 = s.gpr2 := rfl
@[simp] theorem afterRead_gpr3 : (s.afterRead a).gpr3 = s.gpr3 := rfl
@[simp] theorem afterRead_ixr1 : (s.afterRead a).ixr1 = s.ixr1 := rfl
@[simp] theorem afterRead_ixr2 : (s.afterRead a).ixr2 = s.ixr2 := rfl
@[simp] theorem afterRead_ixr3 : (s.afterRead a).ixr3 = s.ixr3 := rfl
@[simp] theorem afterRead_pc : (s.afterRead a).pc = s.pc := rfl
@[simp] theorem afterRead_ir : (s.afterRead a).ir = s.ir := rfl
@[simp] theorem afterRead_cc : (s.afterRead a).cc = s.cc := rfl
@[simp] theorem afterRead_mfr : (s.afterRead a).mfr = s.mfr := rfl
@[simp] theorem afterRead_halted : (s.afterRead a).halted = s.halted := rfl
@[simp] theorem afterRead_memFault : (s.afterRead a).memFault = s.memFault := rfl
@[simp] theorem afterWrite_gpr0 : (s.afterWrite a v).gpr0 = s.gpr0 := rfl
@[simp] theorem afterWrite_gpr1 : (s.afterWrite a v).gpr1 = s.gpr1 := rfl
@[simp] theorem afterWrite_gpr2 : (s.afterWrite a v).gpr2 = s.gpr2 := rfl
@[simp] theorem afterWrite_gpr3 : (s.afterWrite a v).gpr3 = s.gpr3 := rfl
@[simp] theorem afterWrite_ixr1 : (s.afterWrite a v).ixr1 = s.ixr1 := rfl
@[simp] theorem afterWrite_ixr2 : (s.afterWrite a v).ixr2 = s.ixr2 := rfl
@[simp] theorem afterWrite_ixr3 : (s.afterWrite a v).ixr3 = s.ixr3 := rfl
@[simp] theorem afterWrite_pc : (s.afterWrite a v).pc = s.pc := rfl
@[simp] theorem afterWrite_ir : (s.afterWrite a v).ir = s.ir := rfl
@[simp] theorem afterWrite_cc : (s.afterWrite a v).cc = s.cc := rfl
@[simp] theorem afterWrite_mfr : (s.afterWrite a v).mfr = s.mfr := rfl
@[simp] theorem afterWrite_halted : (s.afterWrite a v).halted = s.halted := rfl
@[simp] theorem afterWrite_memFault : (s.afterWrite a v).memFault = s.memFault := rfl
@[simp] theorem afterAddress_gpr0 : (s.afterAddress ind a).gpr0 = s.gpr0 := by cases ind <;> rfl
@[simp] theorem afterAddress_gpr1 : (s.afterAddress ind a).gpr1 = s.gpr1 := by cases ind <;> rfl
@[simp] theorem afterAddress_gpr2 : (s.afterAddress ind a).gpr2 = s.gpr2 := by cases ind <;> rfl
@[simp] theorem afterAddress_gpr3 : (s.afterAddress ind a).gpr3 = s.gpr3 := by cases ind <;> rfl
@[simp] theorem afterAddress_ixr1 : (s.afterAddress ind a).ixr1 = s.ixr1 := by cases ind <;> rfl
@[simp] theorem afterAddress_ixr2 : (s.afterAddress ind a).ixr2 = s.ixr2 := by cases ind <;> rfl
@[simp] theorem afterAddress_ixr3 : (s.afterAddress ind a).ixr3 = s.ixr3 := by cases ind <;> rfl
@[simp] theorem afterAddress_pc : (s.afterAddress ind a).pc = s.pc := by cases ind <;> rfl
@[simp] theorem afterAddress_ir : (s.afterAddress ind a).ir = s.ir := by cases ind <;> rfl
@[simp] theorem afterAddress_cc : (s.afterAddress ind a).cc = s.cc := by cases ind <;> rfl
@[simp] theorem afterAddress_mfr : (s.afterAddress ind a).mfr = s.mfr := by cases ind <;> rfl
@[simp] theorem afterAddress_halted : (s.afterAddress ind a).halted = s.halted := by cases ind <;> rfl
@[simp] theorem afterAddress_memFault : (s.afterAddress ind a).memFault = s.memFault := by cases ind <;> rfl
@[simp] theorem afterRead_mar : (s.afterRead a).mar = a := rfl
@[simp] theorem afterRead_mbr : (s.afterRead a).mbr = s.memory.word a.toNat := rfl
@[simp] theorem afterWrite_mar : (s.afterWrite a v).mar = a := rfl
@[simp] theorem afterWrite_mbr : (s.afterWrite a v).mbr = v := rfl
@[simp] theorem afterAddress_wf : (s.afterAddress ind a).memory.wf = s.memory.wf := by cases ind <;> rfl
@[simp] theorem afterAddress_false : s.afterAddress false a = s := rfl
@[simp] theorem afterAddress_true : s.afterAddress true a = s.afterRead a := rfl
@[simp] theorem afterFetch_pc : s.afterFetch.pc = s.pc + 1 := rfl
@[simp] theorem afterFetch_ir : s.afterFetch.ir = s.memory.word s.pc.toNat := rfl
@[simp] theorem afterFetch_mfr : s.afterFetch.mfr = s.mfr := rfl
@[simp] theorem afterFetch_halted : s.afterFetch.halted = s.halted := rfl
@[simp] theorem afterFetch_cc : s.afterFetch.cc = s.cc := rfl
@[simp] theorem afterFetch_memFault : s.afterFetch.memFault = s.memFault := rfl
@[simp] theorem afterFetch_pending : s.afterFetch.memory.pending = .none := rfl
@[simp] theorem afterFetch_cells : s.afterFetch.memory.cells = s.memory.cells := rfl
@[simp] theorem afterRead_word : (s.afterRead a).memory.word k = s.memory.word k := rfl
@[simp] theorem afterRead_cells : (s.afterRead a).memory.cells = s.memory.cells := rfl
@[simp] theorem afterRead_pending : (s.afterRead a).memory.pending = .none := rfl
@[simp] theorem afterRead_gpr : (s.afterRead a).gpr r = s.gpr r := by cases r <;> rfl
@[simp] theorem afterRead_ixr : (s.afterRead a).ixr x = s.ixr x := by cases x <;> rfl
@[simp] theorem afterWrite_gpr : (s.afterWrite a v).gpr r = s.gpr r := by cases r <;> rfl
@[simp] theorem afterWrite_ixr : (s.afterWrite a v).ixr x = s.ixr x := by cases x <;> rfl
@[simp] theorem afterWrite_word : (s.afterWrite a v).memory.word k = (s.memory.setWord a.toNat v).word k := rfl
@[simp] theorem afterWrite_pending : (s.afterWrite a v).memory.pending = .none := rfl
@[simp] theorem afterAddress_word : (s.afterAddress ind a).memory.word k = s.memory.word k := by cases ind <;> rfl
@[simp] theorem afterAddress_cells : (s.afterAddress ind a).memory.cells = s.memory.cells := by cases ind <;> rfl
@[simp] theorem afterAddress_gpr : (s.afterAddress ind a).gpr r = s.gpr r := by cases ind <;> cases r <;> rfl
@[simp] theorem afterAddress_ixr : (s.afterAddress ind a).ixr x = s.ixr x := by cases ind <;> cases x <;> rfl

end

/-! ### The executed instructions, case by case -/

section
variable (r : Gpr) (ix : Option Ixr) (x : Ixr) (ind : Bool) (addr : BitVec 5) (s : State)

theorem execLdr_ok (h : ind = true → (indexedAddress ix addr s).toNat < Config.memWords)
    (he : (finalAddress ix ind addr s).toNat < Config.memWords) :
    execLdr r ix ind addr s
      = .next (((s.afterAddress ind (indexedAddress ix addr s)).afterRead (finalAddress ix ind addr s)).setGpr r
          (s.memory.word (finalAddress ix ind addr s).toNat)) := by
  simp [execLdr, eaIndexed_of_ok _ _ _ _ h, memRead_of_lt _ _ he, Access.bind, settle]

theorem execLdr_data_fault (h : ind = true → (indexedAddress ix addr s).toNat < Config.memWords)
    (he : ¬ (finalAddress ix ind addr s).toNat < Config.memWords) :
    execLdr r ix ind addr s
      = .next (recordMemFault (.range (finalAddress ix ind addr s).toNat)
          { s.afterAddress ind (indexedAddress ix addr s) with mar := finalAddress ix ind addr s }) := by
  simp [execLdr, eaIndexed_of_ok _ _ _ _ h, memRead_of_ge _ _ he, Access.bind, settle]

theorem execLdr_pointer_fault (hi : ind = true) (h : ¬ (indexedAddress ix addr s).toNat < Config.memWords) :
    execLdr r ix ind addr s
      = .next (recordMemFault (.range (indexedAddress ix addr s).toNat) { s with mar := indexedAddress ix addr s }) := by
  simp [execLdr, eaIndexed_of_fault _ _ _ _ hi h, Access.bind, settle]

theorem execStr_ok (h : ind = true → (indexedAddress ix addr s).toNat < Config.memWords)
    (he : (finalAddress ix ind addr s).toNat < Config.memWords) :
    execStr r ix ind addr s
      = .next ((s.afterAddress ind (indexedAddress ix addr s)).afterWrite (finalAddress ix ind addr s) (s.gpr r)) := by
  simp [execStr, eaIndexed_of_ok _ _ _ _ h, memWrite_of_lt _ _ _ he, Access.bind, settle]

theorem execStr_data_fault (h : ind = true → (indexedAddress ix addr s).toNat < Config.memWords)
    (he : ¬ (finalAddress ix ind addr s).toNat < Config.memWords) :
    execStr r ix ind addr s
      = .next (recordMemFault (.range (finalAddress ix ind addr s).toNat)
          { s.afterAddress ind (indexedAddress ix addr s) with
            mar := finalAddress ix ind addr s
            mbr := s.gpr r }) := by
  simp [execStr, eaIndexed_of_ok _ _ _ _ h, memWrite_of_ge _ _ _ he, Access.bind, settle]

theorem execStr_pointer_fault (hi : ind = true) (h : ¬ (indexedAddress ix addr s).toNat < Config.memWords) :
    execStr r ix ind addr s
      = .next (recordMemFault (.range (indexedAddress ix addr s).toNat) { s with mar := indexedAddress ix addr s }) := by
  simp [execStr, eaIndexed_of_fault _ _ _ _ hi h, Access.bind, settle]

theorem execLda_ok (h : ind = true → (indexedAddress ix addr s).toNat < Config.memWords) :
    execLda r ix ind addr s
      = .next ((s.afterAddress ind (indexedAddress ix addr s)).setGpr r
          (BitVec.ofNat 16 (finalAddress ix ind addr s).toNat)) := by
  simp [execLda, eaIndexed_of_ok _ _ _ _ h, Access.bind, settle]

theorem execLda_pointer_fault (hi : ind = true) (h : ¬ (indexedAddress ix addr s).toNat < Config.memWords) :
    execLda r ix ind addr s
      = .next (recordMemFault (.range (indexedAddress ix addr s).toNat) { s with mar := indexedAddress ix addr s }) := by
  simp [execLda, eaIndexed_of_fault _ _ _ _ hi h, Access.bind, settle]

theorem execLdx_ok (he : (finalAddress none ind addr s).toNat < Config.memWords) :
    execLdx (some x) ind addr s
      = .next (((s.afterAddress ind (indexedAddress none addr s)).afterRead (finalAddress none ind addr s)).setIxr x
          (s.memory.word (finalAddress none ind addr s).toNat)) := by
  simp [execLdx, eaUnindexed_eq, eaIndexed_of_ok none _ _ _ (fun _ => indexedAddress_none_lt addr s),
    memRead_of_lt _ _ he, Access.bind, settle]

theorem execLdx_data_fault (he : ¬ (finalAddress none ind addr s).toNat < Config.memWords) :
    execLdx (some x) ind addr s
      = .next (recordMemFault (.range (finalAddress none ind addr s).toNat)
          { s.afterAddress ind (indexedAddress none addr s) with mar := finalAddress none ind addr s }) := by
  simp [execLdx, eaUnindexed_eq, eaIndexed_of_ok none _ _ _ (fun _ => indexedAddress_none_lt addr s),
    memRead_of_ge _ _ he, Access.bind, settle]

theorem execStx_ok (he : (finalAddress none ind addr s).toNat < Config.memWords) :
    execStx (some x) ind addr s
      = .next ((s.afterAddress ind (indexedAddress none addr s)).afterWrite (finalAddress none ind addr s) (s.ixr x)) := by
  simp [execStx, eaUnindexed_eq, eaIndexed_of_ok none _ _ _ (fun _ => indexedAddress_none_lt addr s),
    memWrite_of_lt _ _ _ he, Access.bind, settle]

theorem execStx_data_fault (he : ¬ (finalAddress none ind addr s).toNat < Config.memWords) :
    execStx (some x) ind addr s
      = .next (recordMemFault (.range (finalAddress none ind addr s).toNat)
          { s.afterAddress ind (indexedAddress none addr s) with
            mar := finalAddress none ind addr s
            mbr := s.ixr x }) := by
  simp [execStx, eaUnindexed_eq, eaIndexed_of_ok none _ _ _ (fun _ => indexedAddress_none_lt addr s),
    memWrite_of_ge _ _ _ he, Access.bind, settle]

end

/-! ### The illegal opcodes and the step -/

/-- Every instruction outside the executed subset has the illegal-opcode execute phase (42_halt_and_unsupported.md R201). -/
theorem exec_illegal (i : Instr) (s : State) (h : illegalInstr i = true) : exec i s = .next (raiseIllegalOpcode s) := by
  cases i <;> first | rfl | cases h

theorem step_of_halted (s : State) (h : s.halted = true) : step s = .next s := by simp [step, h]

theorem step_of_fetch (s : State) (h : s.halted = false) (hp : s.pc.toNat < Config.memWords) :
    step s = exec (decode (s.memory.word s.pc.toNat)) s.afterFetch := by
  simp [step, h, fetch_of_lt _ hp]

theorem step_of_fetch_fault (s : State) (h : s.halted = false) (hp : ¬ s.pc.toNat < Config.memWords) :
    step s = .next (recordMemFault (.range s.pc.toNat) { s with mar := s.pc }) := by
  simp [step, h, fetch_of_ge _ hp, settle]

end Sys2Proof.Machine
end

