-- ==== Sys2Proof/Laws/Effect.lean ====
section
/-! SUPPORT. Everything an execute phase and a step can do, said once as a case list; later proofs go by its cases. -/

namespace Sys2Proof.Machine

/-- What the execute phase of `i` makes of the state `s`. -/
inductive ExecEffect : Instr → State → State → Prop where
  | hlt (s : State) : ExecEffect .hlt s { s with halted := true }
  | illegalOpcode (i : Instr) (s : State) (h : illegalInstr i = true) : ExecEffect i s (raiseIllegalOpcode s)
  | ldxIllegal (ind : Bool) (addr : BitVec 5) (s : State) : ExecEffect (.ldx none ind addr) s (raiseIllegalOperand s)
  | stxIllegal (ind : Bool) (addr : BitVec 5) (s : State) : ExecEffect (.stx none ind addr) s (raiseIllegalOperand s)
  | ldr (r : Gpr) (ix : Option Ixr) (ind : Bool) (addr : BitVec 5) (s : State)
      (h : ind = true → (indexedAddress ix addr s).toNat < Config.memWords)
      (he : (finalAddress ix ind addr s).toNat < Config.memWords) :
      ExecEffect (.ldr r ix ind addr) s
        (((s.afterAddress ind (indexedAddress ix addr s)).afterRead (finalAddress ix ind addr s)).setGpr r
          (s.memory.word (finalAddress ix ind addr s).toNat))
  | ldrPointerFault (r : Gpr) (ix : Option Ixr) (addr : BitVec 5) (s : State)
      (h : ¬ (indexedAddress ix addr s).toNat < Config.memWords) :
      ExecEffect (.ldr r ix true addr) s
        (recordMemFault (.range (indexedAddress ix addr s).toNat) { s with mar := indexedAddress ix addr s })
  | ldrDataFault (r : Gpr) (ix : Option Ixr) (ind : Bool) (addr : BitVec 5) (s : State)
      (h : ind = true → (indexedAddress ix addr s).toNat < Config.memWords)
      (he : ¬ (finalAddress ix ind addr s).toNat < Config.memWords) :
      ExecEffect (.ldr r ix ind addr) s
        (recordMemFault (.range (finalAddress ix ind addr s).toNat)
          { s.afterAddress ind (indexedAddress ix addr s) with mar := finalAddress ix ind addr s })
  | str (r : Gpr) (ix : Option Ixr) (ind : Bool) (addr : BitVec 5) (s : State)
      (h : ind = true → (indexedAddress ix addr s).toNat < Config.memWords)
      (he : (finalAddress ix ind addr s).toNat < Config.memWords) :
      ExecEffect (.str r ix ind addr) s
        ((s.afterAddress ind (indexedAddress ix addr s)).afterWrite (finalAddress ix ind addr s) (s.gpr r))
  | strPointerFault (r : Gpr) (ix : Option Ixr) (addr : BitVec 5) (s : State)
      (h : ¬ (indexedAddress ix addr s).toNat < Config.memWords) :
      ExecEffect (.str r ix true addr) s
        (recordMemFault (.range (indexedAddress ix addr s).toNat) { s with mar := indexedAddress ix addr s })
  | strDataFault (r : Gpr) (ix : Option Ixr) (ind : Bool) (addr : BitVec 5) (s : State)
      (h : ind = true → (indexedAddress ix addr s).toNat < Config.memWords)
      (he : ¬ (finalAddress ix ind addr s).toNat < Config.memWords) :
      ExecEffect (.str r ix ind addr) s
        (recordMemFault (.range (finalAddress ix ind addr s).toNat)
          { s.afterAddress ind (indexedAddress ix addr s) with mar := finalAddress ix ind addr s, mbr := s.gpr r })
  | lda (r : Gpr) (ix : Option Ixr) (ind : Bool) (addr : BitVec 5) (s : State)
      (h : ind = true → (indexedAddress ix addr s).toNat < Config.memWords) :
      ExecEffect (.lda r ix ind addr) s
        ((s.afterAddress ind (indexedAddress ix addr s)).setGpr r
          (BitVec.ofNat 16 (finalAddress ix ind addr s).toNat))
  | ldaPointerFault (r : Gpr) (ix : Option Ixr) (addr : BitVec 5) (s : State)
      (h : ¬ (indexedAddress ix addr s).toNat < Config.memWords) :
      ExecEffect (.lda r ix true addr) s
        (recordMemFault (.range (indexedAddress ix addr s).toNat) { s with mar := indexedAddress ix addr s })
  | ldx (x : Ixr) (ind : Bool) (addr : BitVec 5) (s : State)
      (he : (finalAddress none ind addr s).toNat < Config.memWords) :
      ExecEffect (.ldx (some x) ind addr) s
        (((s.afterAddress ind (indexedAddress none addr s)).afterRead (finalAddress none ind addr s)).setIxr x
          (s.memory.word (finalAddress none ind addr s).toNat))
  | ldxDataFault (x : Ixr) (ind : Bool) (addr : BitVec 5) (s : State)
      (he : ¬ (finalAddress none ind addr s).toNat < Config.memWords) :
      ExecEffect (.ldx (some x) ind addr) s
        (recordMemFault (.range (finalAddress none ind addr s).toNat)
          { s.afterAddress ind (indexedAddress none addr s) with mar := finalAddress none ind addr s })
  | stx (x : Ixr) (ind : Bool) (addr : BitVec 5) (s : State)
      (he : (finalAddress none ind addr s).toNat < Config.memWords) :
      ExecEffect (.stx (some x) ind addr) s
        ((s.afterAddress ind (indexedAddress none addr s)).afterWrite (finalAddress none ind addr s) (s.ixr x))
  | stxDataFault (x : Ixr) (ind : Bool) (addr : BitVec 5) (s : State)
      (he : ¬ (finalAddress none ind addr s).toNat < Config.memWords) :
      ExecEffect (.stx (some x) ind addr) s
        (recordMemFault (.range (finalAddress none ind addr s).toNat)
          { s.afterAddress ind (indexedAddress none addr s) with
            mar := finalAddress none ind addr s
            mbr := s.ixr x })

/-- Every execute phase has one of these effects. -/
theorem exec_effect (i : Instr) (s : State) : ∃ t, exec i s = .next t ∧ ExecEffect i s t := by
  by_cases hi : illegalInstr i = true
  · exact ⟨_, exec_illegal i s hi, .illegalOpcode i s hi⟩
  · cases i with
    | hlt => exact ⟨_, rfl, .hlt s⟩
    | ldr r ix ind addr =>
      by_cases h : ind = true → (indexedAddress ix addr s).toNat < Config.memWords
      · by_cases he : (finalAddress ix ind addr s).toNat < Config.memWords
        · exact ⟨_, execLdr_ok r ix ind addr s h he, .ldr r ix ind addr s h he⟩
        · exact ⟨_, execLdr_data_fault r ix ind addr s h he, .ldrDataFault r ix ind addr s h he⟩
      · obtain ⟨hi', hp⟩ := Classical.not_imp.1 h
        subst hi'
        exact ⟨_, execLdr_pointer_fault r ix true addr s rfl hp, .ldrPointerFault r ix addr s hp⟩
    | str r ix ind addr =>
      by_cases h : ind = true → (indexedAddress ix addr s).toNat < Config.memWords
      · by_cases he : (finalAddress ix ind addr s).toNat < Config.memWords
        · exact ⟨_, execStr_ok r ix ind addr s h he, .str r ix ind addr s h he⟩
        · exact ⟨_, execStr_data_fault r ix ind addr s h he, .strDataFault r ix ind addr s h he⟩
      · obtain ⟨hi', hp⟩ := Classical.not_imp.1 h
        subst hi'
        exact ⟨_, execStr_pointer_fault r ix true addr s rfl hp, .strPointerFault r ix addr s hp⟩
    | lda r ix ind addr =>
      by_cases h : ind = true → (indexedAddress ix addr s).toNat < Config.memWords
      · exact ⟨_, execLda_ok r ix ind addr s h, .lda r ix ind addr s h⟩
      · obtain ⟨hi', hp⟩ := Classical.not_imp.1 h
        subst hi'
        exact ⟨_, execLda_pointer_fault r ix true addr s rfl hp, .ldaPointerFault r ix addr s hp⟩
    | ldx ix ind addr =>
      cases ix with
      | none => exact ⟨_, rfl, .ldxIllegal ind addr s⟩
      | some x =>
        by_cases he : (finalAddress none ind addr s).toNat < Config.memWords
        · exact ⟨_, execLdx_ok x ind addr s he, .ldx x ind addr s he⟩
        · exact ⟨_, execLdx_data_fault x ind addr s he, .ldxDataFault x ind addr s he⟩
    | stx ix ind addr =>
      cases ix with
      | none => exact ⟨_, rfl, .stxIllegal ind addr s⟩
      | some x =>
        by_cases he : (finalAddress none ind addr s).toNat < Config.memWords
        · exact ⟨_, execStx_ok x ind addr s he, .stx x ind addr s he⟩
        · exact ⟨_, execStx_data_fault x ind addr s he, .stxDataFault x ind addr s he⟩
    | _ => exact absurd rfl hi

/-- An execute phase that answers a next state had one of the effects. -/
theorem effect_of_exec {i : Instr} {s t : State} (h : exec i s = .next t) : ExecEffect i s t := by
  obtain ⟨u, hu, e⟩ := exec_effect i s
  rw [h] at hu
  cases hu
  exact e

/-- The effect determines the answer of the execute phase. -/
theorem exec_of_effect {i : Instr} {s t : State} (e : ExecEffect i s t) : exec i s = .next t := by
  cases e with
  | hlt => rfl
  | illegalOpcode _ _ h => exact exec_illegal i s h
  | ldxIllegal => rfl
  | stxIllegal => rfl
  | ldr r ix ind addr _ h he => exact execLdr_ok r ix ind addr s h he
  | ldrPointerFault r ix addr _ h => exact execLdr_pointer_fault r ix true addr s rfl h
  | ldrDataFault r ix ind addr _ h he => exact execLdr_data_fault r ix ind addr s h he
  | str r ix ind addr _ h he => exact execStr_ok r ix ind addr s h he
  | strPointerFault r ix addr _ h => exact execStr_pointer_fault r ix true addr s rfl h
  | strDataFault r ix ind addr _ h he => exact execStr_data_fault r ix ind addr s h he
  | lda r ix ind addr _ h => exact execLda_ok r ix ind addr s h
  | ldaPointerFault r ix addr _ h => exact execLda_pointer_fault r ix true addr s rfl h
  | ldx x ind addr _ he => exact execLdx_ok x ind addr s he
  | ldxDataFault x ind addr _ he => exact execLdx_data_fault x ind addr s he
  | stx x ind addr _ he => exact execStx_ok x ind addr s he
  | stxDataFault x ind addr _ he => exact execStx_data_fault x ind addr s he

/-- What a step makes of the state `s`. -/
inductive StepEffect : State → State → Prop where
  | halted (s : State) (h : s.halted = true) : StepEffect s s
  | fetchFault (s : State) (h : s.halted = false) (hp : ¬ s.pc.toNat < Config.memWords) :
      StepEffect s (recordMemFault (.range s.pc.toNat) { s with mar := s.pc })
  | executed (s t : State) (h : s.halted = false) (hp : s.pc.toNat < Config.memWords)
      (e : ExecEffect (decode (s.memory.word s.pc.toNat)) s.afterFetch t) : StepEffect s t

/-- A step that answers a next state had one of the effects. -/
theorem effect_of_step {s t : State} (h : step s = .next t) : StepEffect s t := by
  cases hh : s.halted with
  | true =>
    rw [step_of_halted s hh] at h
    cases h
    exact .halted s hh
  | false =>
    by_cases hp : s.pc.toNat < Config.memWords
    · rw [step_of_fetch s hh hp] at h
      exact .executed s t hh hp (effect_of_exec h)
    · rw [step_of_fetch_fault s hh hp] at h
      cases h
      exact .fetchFault s hh hp

/-! ### The mark

The mark has no influence on anything else, so an execute phase and a step commute with changing it. -/

@[simp] theorem indexedAddress_mark (ix : Option Ixr) (addr : BitVec 5) (s : State) (m : Option Fault) :
    indexedAddress ix addr { s with memFault := m } = indexedAddress ix addr s := by
  cases ix with
  | none => rfl
  | some x => cases x <;> rfl

@[simp] theorem finalAddress_mark (ix : Option Ixr) (ind : Bool) (addr : BitVec 5) (s : State) (m : Option Fault) :
    finalAddress ix ind addr { s with memFault := m } = finalAddress ix ind addr s := by
  simp only [finalAddress, indexedAddress_mark]

@[simp] theorem gpr_mark (r : Gpr) (s : State) (m : Option Fault) : { s with memFault := m }.gpr r = s.gpr r := by
  cases r <;> rfl

@[simp] theorem ixr_mark (x : Ixr) (s : State) (m : Option Fault) : { s with memFault := m }.ixr x = s.ixr x := by
  cases x <;> rfl

theorem setGpr_mark (r : Gpr) (v : Word) (s : State) (m : Option Fault) :
    { s with memFault := m }.setGpr r v = { s.setGpr r v with memFault := m } := by
  cases r <;> rfl

theorem setIxr_mark (x : Ixr) (v : Word) (s : State) (m : Option Fault) :
    { s with memFault := m }.setIxr x v = { s.setIxr x v with memFault := m } := by
  cases x <;> rfl

theorem afterAddress_mark (ind : Bool) (e : Addr) (s : State) (m : Option Fault) :
    { s with memFault := m }.afterAddress ind e = { s.afterAddress ind e with memFault := m } := by
  cases ind <;> rfl

theorem afterRead_mark (a : Addr) (s : State) (m : Option Fault) :
    { s with memFault := m }.afterRead a = { s.afterRead a with memFault := m } := rfl

theorem afterWrite_mark (a : Addr) (v : Word) (s : State) (m : Option Fault) :
    { s with memFault := m }.afterWrite a v = { s.afterWrite a v with memFault := m } := rfl

/-- The mark that a `MemFault` adds. -/
theorem ExecEffect.mark {i : Instr} {s t : State} (e : ExecEffect i s t) :
    ∃ f : Option Fault, ∀ m, ExecEffect i { s with memFault := m } { t with memFault := m.or f } := by
  cases e with
  | hlt => exact ⟨none, fun m => by rw [Option.or_none]; exact .hlt { s with memFault := m }⟩
  | illegalOpcode _ _ h =>
    exact ⟨none, fun m => by rw [Option.or_none]; exact .illegalOpcode i { s with memFault := m } h⟩
  | ldxIllegal ind addr =>
    exact ⟨none, fun m => by rw [Option.or_none]; exact .ldxIllegal ind addr { s with memFault := m }⟩
  | stxIllegal ind addr =>
    exact ⟨none, fun m => by rw [Option.or_none]; exact .stxIllegal ind addr { s with memFault := m }⟩
  | ldr r ix ind addr _ h he =>
    refine ⟨none, fun m => ?_⟩
    rw [Option.or_none]
    have := ExecEffect.ldr r ix ind addr { s with memFault := m } (by simpa using h) (by simpa using he)
    simp only [finalAddress_mark, indexedAddress_mark, afterAddress_mark, afterRead_mark, setGpr_mark] at this
    exact this
  | ldrPointerFault r ix addr _ h =>
    refine ⟨some (.range (indexedAddress ix addr s).toNat), fun m => ?_⟩
    have := ExecEffect.ldrPointerFault r ix addr { s with memFault := m } (by simpa using h)
    simp only [indexedAddress_mark] at this
    exact this
  | ldrDataFault r ix ind addr _ h he =>
    refine ⟨some (.range (finalAddress ix ind addr s).toNat), fun m => ?_⟩
    have := ExecEffect.ldrDataFault r ix ind addr { s with memFault := m } (by simpa using h) (by simpa using he)
    simp only [finalAddress_mark, indexedAddress_mark, afterAddress_mark] at this
    exact this
  | str r ix ind addr _ h he =>
    refine ⟨none, fun m => ?_⟩
    rw [Option.or_none]
    have := ExecEffect.str r ix ind addr { s with memFault := m } (by simpa using h) (by simpa using he)
    simp only [finalAddress_mark, indexedAddress_mark, afterAddress_mark, afterWrite_mark, gpr_mark] at this
    exact this
  | strPointerFault r ix addr _ h =>
    refine ⟨some (.range (indexedAddress ix addr s).toNat), fun m => ?_⟩
    have := ExecEffect.strPointerFault r ix addr { s with memFault := m } (by simpa using h)
    simp only [indexedAddress_mark] at this
    exact this
  | strDataFault r ix ind addr _ h he =>
    refine ⟨some (.range (finalAddress ix ind addr s).toNat), fun m => ?_⟩
    have := ExecEffect.strDataFault r ix ind addr { s with memFault := m } (by simpa using h) (by simpa using he)
    simp only [finalAddress_mark, indexedAddress_mark, afterAddress_mark, gpr_mark] at this
    exact this
  | lda r ix ind addr _ h =>
    refine ⟨none, fun m => ?_⟩
    rw [Option.or_none]
    have := ExecEffect.lda r ix ind addr { s with memFault := m } (by simpa using h)
    simp only [finalAddress_mark, indexedAddress_mark, afterAddress_mark, setGpr_mark] at this
    exact this
  | ldaPointerFault r ix addr _ h =>
    refine ⟨some (.range (indexedAddress ix addr s).toNat), fun m => ?_⟩
    have := ExecEffect.ldaPointerFault r ix addr { s with memFault := m } (by simpa using h)
    simp only [indexedAddress_mark] at this
    exact this
  | ldx x ind addr _ he =>
    refine ⟨none, fun m => ?_⟩
    rw [Option.or_none]
    have := ExecEffect.ldx x ind addr { s with memFault := m } (by simpa using he)
    simp only [finalAddress_mark, indexedAddress_mark, afterAddress_mark, afterRead_mark, setIxr_mark] at this
    exact this
  | ldxDataFault x ind addr _ he =>
    refine ⟨some (.range (finalAddress none ind addr s).toNat), fun m => ?_⟩
    have := ExecEffect.ldxDataFault x ind addr { s with memFault := m } (by simpa using he)
    simp only [finalAddress_mark, indexedAddress_mark, afterAddress_mark] at this
    exact this
  | stx x ind addr _ he =>
    refine ⟨none, fun m => ?_⟩
    rw [Option.or_none]
    have := ExecEffect.stx x ind addr { s with memFault := m } (by simpa using he)
    simp only [finalAddress_mark, indexedAddress_mark, afterAddress_mark, afterWrite_mark, ixr_mark] at this
    exact this
  | stxDataFault x ind addr _ he =>
    refine ⟨some (.range (finalAddress none ind addr s).toNat), fun m => ?_⟩
    have := ExecEffect.stxDataFault x ind addr { s with memFault := m } (by simpa using he)
    simp only [finalAddress_mark, indexedAddress_mark, afterAddress_mark, ixr_mark] at this
    exact this

/-- The execute phase under another mark: there is one `MemFault`, or none, that it adds whatever the mark. -/
theorem exec_mark (i : Instr) (s : State) :
    ∃ (f : Option Fault) (u : State), ∀ m, exec i { s with memFault := m } = .next { u with memFault := m.or f } := by
  obtain ⟨t, -, e⟩ := exec_effect i s
  obtain ⟨f, hf⟩ := e.mark
  exact ⟨f, t, fun m => (exec_of_effect (hf m))⟩

/-- The same of a step. -/
theorem step_mark (s : State) (h : s.halted = false) :
    ∃ (f : Option Fault) (u : State), ∀ m, step { s with memFault := m } = .next { u with memFault := m.or f } := by
  by_cases hp : s.pc.toNat < Config.memWords
  · obtain ⟨f, u, hu⟩ := exec_mark (decode (s.memory.word s.pc.toNat)) s.afterFetch
    exact ⟨f, u, fun m => (step_of_fetch { s with memFault := m } h hp).trans (hu m)⟩
  · exact ⟨some (.range s.pc.toNat), { s with mar := s.pc }, fun m =>
      step_of_fetch_fault { s with memFault := m } h hp⟩

end Sys2Proof.Machine
end

