-- ==== Sys2Proof/Laws/Boundary.lean ====
section
/-! SUPPORT. The validation of the host's arguments, the outcome of a step, and the run, each in the lemmas later proofs
cite. -/

namespace Sys2Proof.Machine

theorem outOfRange_cons_in (a : Int) (n : Nat) (rest : List (Int × Nat)) (h0 : 0 ≤ a) (h1 : a < n) :
    outOfRange ((a, n) :: rest) = outOfRange rest := by
  simp [outOfRange, h0, h1]

theorem outOfRange_cons_out (a : Int) (n : Nat) (rest : List (Int × Nat)) (h : a < 0 ∨ (n : Int) ≤ a) :
    outOfRange ((a, n) :: rest) = a :: outOfRange rest := by
  simp [outOfRange, h]

@[simp] theorem outOfRange_nil : outOfRange [] = [] := rfl

theorem validated_ok (args : List (Int × Nat)) (s : State) (run : Reply × State) (h : outOfRange args = []) :
    validated args s run = run := by
  simp [validated, h, argumentFault]

/-- The arguments `outOfRange` names are exactly those that are out of their ranges. -/
theorem mem_outOfRange (args : List (Int × Nat)) (a : Int) :
    a ∈ outOfRange args ↔ ∃ n, (a, n) ∈ args ∧ (a < 0 ∨ (n : Int) ≤ a) := by
  simp only [outOfRange, List.mem_map, List.mem_filter]
  constructor
  · rintro ⟨⟨b, n⟩, ⟨hm, h⟩, rfl⟩
    exact ⟨n, hm, by simp at h; omega⟩
  · rintro ⟨n, hm, h⟩
    exact ⟨(a, n), ⟨hm, by simp; omega⟩, rfl⟩

/-- Either the arguments are refused and nothing changes, or the operation runs. -/
theorem validated_cases (args : List (Int × Nat)) (s : State) (run : Reply × State) :
    (∃ f, validated args s run = (.memFault f, s)) ∨ validated args s run = run := by
  unfold validated
  split
  · exact .inl ⟨_, rfl⟩
  · exact .inr rfl

/-- A refused argument: the reply names one that is out of range, and nothing changes. -/
theorem validated_refused (args : List (Int × Nat)) (s : State) (run : Reply × State) (h : outOfRange args ≠ []) :
    ∃ a ∈ outOfRange args, validated args s run = (.memFault (.range a), s) := by
  unfold validated
  match hl : outOfRange args with
  | [] => exact absurd hl h
  | [a] => exact ⟨a, by simp, rfl⟩
  | a :: b :: rest =>
    refine ⟨_, ?_, rfl⟩
    rw [List.getD_eq_getElem?_getD]
    cases hg : (a :: b :: rest)[Config.reportedArgument (a :: b :: rest)]? with
    | none => simp
    | some c => exact List.mem_of_getElem? hg

theorem outcomeOf_memFault (t : State) (f : Fault) (h : t.memFault = some f) : outcomeOf t = .memFault f := by
  simp only [outcomeOf, h]

theorem outcomeOf_halted (t : State) (h : t.memFault = none) (hh : t.halted = true) :
    outcomeOf t = .haltedBy (haltCause (decode t.ir)) := by
  simp only [outcomeOf, h, hh]

theorem outcomeOf_stepped (t : State) (m : Mnemonic) (h : t.memFault = none) (hh : t.halted = false)
    (hm : (decode t.ir).mnemonic = some m) : outcomeOf t = .stepped m := by
  simp only [outcomeOf, h, hh, hm]

theorem haltCause_illegal (i : Instr) (h : illegalInstr i = true) : haltCause i = .illegalOpcode := by
  cases i <;> first | rfl | cases h

/-- The outcome of a step of a RUNNING machine, told from the state it answers and the `MemFault` it adds. -/
theorem stepOutcome_of_running (s : State) (h : s.halted = false) :
    ∃ (f : Option Fault) (t : State), step s = .next t ∧ t.memFault = s.memFault.or f ∧
      stepOutcome s = outcomeOf { t with memFault := f } := by
  obtain ⟨f, u, hu⟩ := step_mark s h
  refine ⟨f, _, hu s.memFault, rfl, ?_⟩
  rw [stepOutcome, if_neg (by simp [h]), hu none]
  simp

/-- Every step answers a next state. -/
theorem step_next (s : State) : ∃ t, step s = .next t := by
  cases h : s.halted with
  | true => exact ⟨s, step_of_halted s h⟩
  | false =>
    obtain ⟨_, t, ht, _⟩ := stepOutcome_of_running s h
    exact ⟨t, ht⟩

theorem executeOneStep_of_step {s t : State} (h : step s = .next t) : executeOneStep s = (stepOutcome s, t) := by
  rw [executeOneStep, h]

/-! ### The loop of a run, case by case -/

theorem runSteps_of_halted (n : Nat) (s : State) (h : s.halted = true) : runSteps n s = (.halted, s) := by
  cases n <;> simp [runSteps, h]

theorem runSteps_zero (s : State) (h : s.halted = false) : runSteps 0 s = (.ceilingReached, s) := by
  simp [runSteps, h]

theorem runSteps_of_memFault (n : Nat) {s t : State} {f : Fault} (h : s.halted = false)
    (hs : executeOneStep s = (.memFault f, t)) : runSteps (n + 1) s = (.memFault f, t) := by
  simp [runSteps, h, hs]

theorem runSteps_of_step (n : Nat) {s t : State} {o : StepOutcome} (h : s.halted = false)
    (hs : executeOneStep s = (o, t)) (ho : ∀ f, o ≠ .memFault f) : runSteps (n + 1) s = runSteps n t := by
  rw [runSteps, if_neg (by simp [h]), hs]
  cases o <;> first | rfl | exact absurd rfl (ho _)

/-- What every step keeps, a run keeps. -/
theorem runSteps_keeps (P : State → Prop) (hP : ∀ s t, P s → step s = .next t → P t) (n : Nat) (s : State) (hs : P s) :
    P (runSteps n s).2 := by
  induction n generalizing s with
  | zero =>
    unfold runSteps
    split <;> exact hs
  | succ n ih =>
    cases h : s.halted with
    | true =>
      rw [runSteps_of_halted _ s h]
      exact hs
    | false =>
      obtain ⟨t, ht⟩ := step_next s
      rw [runSteps, if_neg (by simp [h]), executeOneStep_of_step ht]
      cases stepOutcome s <;> first | exact ih t (hP s t hs ht) | exact hP s t hs ht

/-! ### What a request can do to the state -/

theorem fetch_reply_cases (s : State) (f : Word → Reply) :
    ((fetch s).reply f).2 = s.afterFetch ∨ ∃ e, ((fetch s).reply f).2 = recordMemFault e { s with mar := s.pc } := by
  by_cases h : s.pc.toNat < Config.memWords
  · exact .inl (by rw [fetch_of_lt s h]; rfl)
  · exact .inr ⟨.range s.pc.toNat, by rw [fetch_of_ge s h]; rfl⟩

theorem memRead_reply_cases (s : State) (a : Addr) (f : Word → Reply) :
    ((memRead a s).reply f).2 = s.afterRead a ∨ ∃ e, ((memRead a s).reply f).2 = recordMemFault e { s with mar := a } := by
  by_cases h : a.toNat < Config.memWords
  · exact .inl (by rw [memRead_of_lt a s h]; rfl)
  · exact .inr ⟨.range a.toNat, by rw [memRead_of_ge a s h]; rfl⟩

theorem memWrite_reply_cases (s : State) (a : Addr) (v : Word) (f : Unit → Reply) :
    (a.toNat < Config.memWords ∧ ((memWrite a v s).reply f).2 = s.afterWrite a v) ∨
      ∃ e, ((memWrite a v s).reply f).2 = recordMemFault e { s with mar := a, mbr := v } := by
  by_cases h : a.toNat < Config.memWords
  · exact .inl ⟨h, by rw [memWrite_of_lt a v s h]; rfl⟩
  · exact .inr ⟨.range a.toNat, by rw [memWrite_of_ge a v s h]; rfl⟩

theorem eaIndexed_reply_cases (s : State) (ix : Option Ixr) (ind : Bool) (addr : BitVec 5) (f : Addr → Reply) :
    ((eaIndexed ix ind addr s).reply f).2 = s.afterAddress ind (indexedAddress ix addr s) ∨
      ∃ e, ((eaIndexed ix ind addr s).reply f).2 = recordMemFault e { s with mar := indexedAddress ix addr s } := by
  by_cases h : ind = true → (indexedAddress ix addr s).toNat < Config.memWords
  · exact .inl (by rw [eaIndexed_of_ok ix ind addr s h]; rfl)
  · obtain ⟨hi, hp⟩ := Classical.not_imp.1 h
    exact .inr ⟨.range (indexedAddress ix addr s).toNat, by rw [eaIndexed_of_fault ix ind addr s hi hp]; rfl⟩

/-- The states a request can lead to: what holds of each of them holds after the request. -/
theorem hostOp_cases (op : HostOp) (s : State) (P : State → Prop) (same : P s) (reset : op = .resetAll → P State.reset)
    (fetched : op = .fetchOneWord → P s.afterFetch) (addressFault : ∀ a e, P (recordMemFault e { s with mar := a }))
    (read : ∀ a, P (s.afterRead a)) (written : ∀ a v, a.toNat < Config.memWords → P (s.afterWrite a v))
    (writeFault : ∀ a v e, P (recordMemFault e { s with mar := a, mbr := v }))
    (stepped : op = .executeOneStep → P (executeOneStep s).2)
    (ran : ∀ c, op = .runUntilHaltedOrCeiling c → P (run c s).2) (halted : op = .halt → P { s with halted := true })
    (set : ∀ x v, op = .setReg x v → P (s.setReg x v))
    (memory : ((∃ a v, op = .poke a v) ∨ (∃ a, op = .latchRead a) ∨ (∃ a, op = .latchWrite a) ∨ op = .transferRead ∨
      ∃ v, op = .transferWrite v) → ∀ m : Memory, (s.memory.wf = true → m.wf = true) → P { s with memory := m }) :
    P (hostOp op s).2 := by
  cases op with
  | resetAll => exact reset rfl
  | fetchOneWord =>
    simp only [hostOp]
    rcases fetch_reply_cases s .word with h | ⟨e, h⟩ <;> rw [h]
    exacts [fetched rfl, addressFault _ _]
  | readWord a =>
    simp only [hostOp]
    rcases validated_cases [(a, 4096)] s ((memRead (BitVec.ofInt 12 a) s).reply .word) with ⟨f, h⟩ | h <;> rw [h]
    · exact same
    · rcases memRead_reply_cases s (BitVec.ofInt 12 a) .word with h | ⟨e, h⟩ <;> rw [h]
      exacts [read _, addressFault _ _]
  | writeWord a v =>
    simp only [hostOp]
    rcases validated_cases [(a, 4096), (v, 65536)] s
      ((memWrite (BitVec.ofInt 12 a) (BitVec.ofInt 16 v) s).reply fun _ => .ok) with ⟨f, h⟩ | h <;> rw [h]
    · exact same
    · rcases memWrite_reply_cases s (BitVec.ofInt 12 a) (BitVec.ofInt 16 v) fun _ => .ok with ⟨ha, h⟩ | ⟨e, h⟩ <;> rw [h]
      exacts [written _ _ ha, writeFault _ _ _]
  | computeEffectiveAddress a b c =>
    simp only [hostOp]
    rcases validated_cases [(a, 4), (b, 2), (c, 32)] s
      ((eaIndexed (ixOfField (BitVec.ofInt 2 a)) (indirectOfField (BitVec.ofInt 1 b)) (BitVec.ofInt 5 c) s).reply
        .address) with ⟨f, h⟩ | h <;> rw [h]
    · exact same
    · rcases eaIndexed_reply_cases s (ixOfField (BitVec.ofInt 2 a)) (indirectOfField (BitVec.ofInt 1 b))
        (BitVec.ofInt 5 c) .address with h | ⟨e, h⟩ <;> rw [h]
      · cases indirectOfField (BitVec.ofInt 1 b)
        exacts [same, read _]
      · exact addressFault _ _
  | executeOneStep => exact stepped rfl
  | runUntilHaltedOrCeiling c => exact ran c rfl
  | halt => exact halted rfl
  | isHalted => exact same
  | peek a =>
    cases a with
    | ofNat k =>
      simp only [hostOp]
      cases s.memory.peek k <;> exact same
    | negSucc => exact same
  | poke a v =>
    simp only [hostOp]
    rcases validated_cases [(a, 2048), (v, 65536)] s (memoryReply s (s.memory.poke a.toNat (BitVec.ofInt 16 v)))
      with ⟨f, h⟩ | h <;> rw [h]
    · exact same
    · cases h : s.memory.poke a.toNat (BitVec.ofInt 16 v) with
      | error => exact same
      | ok m => exact memory (.inl ⟨_, _, rfl⟩) m fun hm => poke_wf _ _ _ _ hm h
  | snapshot x => exact same
  | setReg x v => exact set x v rfl
  | latchRead a =>
    cases a with
    | ofNat k =>
      simp only [hostOp]
      cases h : s.memory.latchRead k with
      | error => exact same
      | ok m => exact memory (.inr (.inl ⟨_, rfl⟩)) m fun hm => latchRead_wf _ _ _ hm h
    | negSucc => exact same
  | latchWrite a =>
    cases a with
    | ofNat k =>
      simp only [hostOp]
      cases h : s.memory.latchWrite k with
      | error => exact same
      | ok m => exact memory (.inr (.inr (.inl ⟨_, rfl⟩))) m fun hm => latchWrite_wf _ _ _ hm h
    | negSucc => exact same
  | transferRead =>
    simp only [hostOp]
    cases h : s.memory.transferRead with
    | error => exact same
    | ok p => exact memory (.inr (.inr (.inr (.inl rfl)))) p.2 fun hm => transferRead_wf _ _ _ hm h
  | transferWrite v =>
    simp only [hostOp]
    cases h : s.memory.transferWrite v with
    | error => exact same
    | ok m => exact memory (.inr (.inr (.inr (.inr ⟨_, rfl⟩)))) m fun hm => transferWrite_wf _ _ _ hm h

end Sys2Proof.Machine
end

