-- ==== Sys2Proof/Laws/Codec.lean ====
section
/-! SUPPORT. The codec in arithmetic: each encoder as a sum of its fields, each decoder's field as a quotient and
remainder, and the decoders after the encoders. -/

namespace Sys2Proof

theorem field_toNat (w : Word) (lo n : Nat) : (field w lo n).toNat = w.toNat / 2 ^ lo % 2 ^ n := by
  simp [field, Nat.shiftRight_eq_div_pow]

/-- Two parts that do not overlap: `|` is `+`. -/
theorem shift_or_eq_add (a b i : Nat) (h : b < 2 ^ i) : a <<< i ||| b = a * 2 ^ i + b := by
  rw [← Nat.shiftLeft_add_eq_or_of_lt h, Nat.shiftLeft_eq]

theorem or_shift_shift (a b i j : Nat) (h : b <<< j < 2 ^ i) : a <<< i ||| b <<< j = a * 2 ^ i + b * 2 ^ j := by
  rw [shift_or_eq_add a _ i h, Nat.shiftLeft_eq]

theorem encLS_toNat (op r ix i addr : Nat) :
    (encLS op r ix i addr).toNat = op % 64 * 1024 + r % 4 * 256 + ix % 4 * 64 + i % 2 * 32 + addr % 32 := by
  have hi : (i % 2) <<< 5 ||| addr % 32 = i % 2 * 32 + addr % 32 := shift_or_eq_add _ _ 5 (by omega)
  have hx : (ix % 4) <<< 6 ||| (i % 2 * 32 + addr % 32) = ix % 4 * 64 + (i % 2 * 32 + addr % 32) :=
    shift_or_eq_add _ _ 6 (by omega)
  have hr : (r % 4) <<< 8 ||| (ix % 4 * 64 + (i % 2 * 32 + addr % 32))
      = r % 4 * 256 + (ix % 4 * 64 + (i % 2 * 32 + addr % 32)) := shift_or_eq_add _ _ 8 (by omega)
  have ho : (op % 64) <<< 10 ||| (r % 4 * 256 + (ix % 4 * 64 + (i % 2 * 32 + addr % 32)))
      = op % 64 * 1024 + (r % 4 * 256 + (ix % 4 * 64 + (i % 2 * 32 + addr % 32))) :=
    shift_or_eq_add _ _ 10 (by omega)
  unfold encLS
  rw [Nat.or_assoc, Nat.or_assoc, Nat.or_assoc, hi, hx, hr, ho, BitVec.toNat_ofNat]
  omega

theorem encRR_toNat (op rx ry : Nat) : (encRR op rx ry).toNat = op % 64 * 1024 + rx % 4 * 256 + ry % 4 * 64 := by
  have h0 : encRR op rx ry = encLS op rx ry 0 0 := by simp [encRR, encLS]
  rw [h0, encLS_toNat]
  omega

theorem encIO_toNat (op r devid : Nat) :
    (encIO op r devid).toNat = op % 64 * 1024 + r % 4 * 256 + devid % 32 := by
  have h0 : encIO op r devid = encLS op r 0 0 devid := by simp [encIO, encLS]
  rw [h0, encLS_toNat]
  omega

theorem encSH_toNat (op r al lr count : Nat) :
    (encSH op r al lr count).toNat
      = op % 64 * 1024 + r % 4 * 256 + al % 2 * 128 + lr % 2 * 64 + count % 16 * 4 := by
  have hc : (count % 16) <<< 2 = count % 16 * 4 := Nat.shiftLeft_eq _ _
  have hl : (lr % 2) <<< 6 ||| count % 16 * 4 = lr % 2 * 64 + count % 16 * 4 := shift_or_eq_add _ _ 6 (by omega)
  have ha : (al % 2) <<< 7 ||| (lr % 2 * 64 + count % 16 * 4) = al % 2 * 128 + (lr % 2 * 64 + count % 16 * 4) :=
    shift_or_eq_add _ _ 7 (by omega)
  have hr : (r % 4) <<< 8 ||| (al % 2 * 128 + (lr % 2 * 64 + count % 16 * 4))
      = r % 4 * 256 + (al % 2 * 128 + (lr % 2 * 64 + count % 16 * 4)) := shift_or_eq_add _ _ 8 (by omega)
  have ho : (op % 64) <<< 10 ||| (r % 4 * 256 + (al % 2 * 128 + (lr % 2 * 64 + count % 16 * 4)))
      = op % 64 * 1024 + (r % 4 * 256 + (al % 2 * 128 + (lr % 2 * 64 + count % 16 * 4))) :=
    shift_or_eq_add _ _ 10 (by omega)
  unfold encSH
  rw [hc, Nat.or_assoc, Nat.or_assoc, Nat.or_assoc, hl, ha, hr, ho, BitVec.toNat_ofNat]
  omega

theorem decLS_encLS (op r ix i addr : Nat) :
    decLS (encLS op r ix i addr)
      = ⟨BitVec.ofNat 6 op, BitVec.ofNat 2 r, BitVec.ofNat 2 ix, BitVec.ofNat 1 i, BitVec.ofNat 5 addr⟩ := by
  simp only [decLS, LsFields.mk.injEq]
  refine ⟨?_, ?_, ?_, ?_, ?_⟩ <;> apply BitVec.eq_of_toNat_eq <;>
    rw [field_toNat, encLS_toNat, BitVec.toNat_ofNat] <;> omega

theorem decRR_encRR (op rx ry : Nat) :
    decRR (encRR op rx ry) = ⟨BitVec.ofNat 6 op, BitVec.ofNat 2 rx, BitVec.ofNat 2 ry⟩ := by
  simp only [decRR, RrFields.mk.injEq]
  refine ⟨?_, ?_, ?_⟩ <;> apply BitVec.eq_of_toNat_eq <;>
    rw [field_toNat, encRR_toNat, BitVec.toNat_ofNat] <;> omega

theorem decSH_encSH (op r al lr count : Nat) :
    decSH (encSH op r al lr count)
      = ⟨BitVec.ofNat 6 op, BitVec.ofNat 2 r, BitVec.ofNat 1 al, BitVec.ofNat 1 lr, BitVec.ofNat 4 count⟩ := by
  simp only [decSH, ShFields.mk.injEq]
  refine ⟨?_, ?_, ?_, ?_, ?_⟩ <;> apply BitVec.eq_of_toNat_eq <;>
    rw [field_toNat, encSH_toNat, BitVec.toNat_ofNat] <;> omega

theorem decIO_encIO (op r devid : Nat) :
    decIO (encIO op r devid) = ⟨BitVec.ofNat 6 op, BitVec.ofNat 2 r, BitVec.ofNat 5 devid⟩ := by
  simp only [decIO, IoFields.mk.injEq]
  refine ⟨?_, ?_, ?_⟩ <;> apply BitVec.eq_of_toNat_eq <;>
    rw [field_toNat, encIO_toNat, BitVec.toNat_ofNat] <;> omega

/-- Every valid field tuple comes back from its word. -/
theorem decLS_encode (t : LsFields) : decLS t.encode = t := by simp [LsFields.encode, decLS_encLS]

theorem decRR_encode (t : RrFields) : decRR t.encode = t := by simp [RrFields.encode, decRR_encRR]

theorem decSH_encode (t : ShFields) : decSH t.encode = t := by simp [ShFields.encode, decSH_encSH]

theorem decIO_encode (t : IoFields) : decIO t.encode = t := by simp [IoFields.encode, decIO_encIO]

theorem unusedRR_toNat (w : Word) : (unusedRR w).toNat = w.toNat % 64 := by simp [unusedRR, field_toNat]

theorem unusedSH_toNat (w : Word) : (unusedSH w).toNat = w.toNat % 4 := by simp [unusedSH, field_toNat]

theorem unusedIO_toNat (w : Word) : (unusedIO w).toNat = w.toNat / 32 % 8 := by simp [unusedIO, field_toNat]

theorem opField_encRR (op rx ry : Nat) : (decLS (encRR op rx ry)).op = BitVec.ofNat 6 op :=
  congrArg RrFields.op (decRR_encRR op rx ry)

theorem opField_encSH (op r al lr count : Nat) : (decLS (encSH op r al lr count)).op = BitVec.ofNat 6 op :=
  congrArg ShFields.op (decSH_encSH op r al lr count)

theorem opField_encIO (op r devid : Nat) : (decLS (encIO op r devid)).op = BitVec.ofNat 6 op :=
  congrArg IoFields.op (decIO_encIO op r devid)

@[simp] theorem gprOfField_gprNumber (r : Gpr) : gprOfField (BitVec.ofNat 2 (gprNumber r)) = r := by
  cases r <;> rfl

@[simp] theorem ixOfField_ixNumber (ix : Option Ixr) : ixOfField (BitVec.ofNat 2 (ixNumber ix)) = ix := by
  rcases ix with _ | (_ | _ | _) <;> rfl

@[simp] theorem indirectOfField_indirectNumber (ind : Bool) :
    indirectOfField (BitVec.ofNat 1 (indirectNumber ind)) = ind := by
  cases ind <;> rfl

theorem gprNumber_gprOfField (b : BitVec 2) : gprNumber (gprOfField b) = b.toNat := by revert b; decide

theorem ixNumber_ixOfField (b : BitVec 2) : ixNumber (ixOfField b) = b.toNat := by revert b; decide

theorem indirectNumber_indirectOfField (b : BitVec 1) : indirectNumber (indirectOfField b) = b.toNat := by
  revert b; decide

theorem opField_toNat (w : Word) : (decLS w).op.toNat = w.toNat / 1024 := by
  have := w.isLt
  simp only [decLS, field_toNat]
  omega

/-- The opcode field of an encoded word is the opcode number, in all four layouts (R109). -/
theorem opField_encodeFields (op : Nat) (i : Instr) : (decLS (encodeFields op i)).op = BitVec.ofNat 6 op := by
  cases i <;> simp only [encodeFields, decLS_encLS, opField_encRR, opField_encSH, opField_encIO]

/-- The operands come back from an encoded word, whatever the opcode number. -/
theorem operandsOf_encodeFields (op : Nat) (i : Instr) (m : Mnemonic) (h : i.mnemonic = some m) :
    operandsOf m (encodeFields op i) = i := by
  cases i <;> simp only [Instr.mnemonic, Option.some.injEq, reduceCtorEq] at h <;> subst h <;>
    simp [operandsOf, encodeFields, decLS_encLS, decRR_encRR, decSH_encSH, decIO_encIO]

/-- `Mnemonic.all` lists every mnemonic. -/
theorem Mnemonic.mem_all (m : Mnemonic) : m ∈ Mnemonic.all := by cases m <;> decide

/-- The opcode table's decoder, by mnemonic. -/
theorem decode_of_opcode (w : Word) (m : Mnemonic) (h : (decLS w).op = defaultOpcode m) :
    decode w = operandsOf m w := by
  unfold decode
  rw [h]
  cases m <;> rfl

end Sys2Proof
end

