-- ==== Sys2Proof/Laws/PerInstr.lean ====
section
/-! SUPPORT. The encoder and the decoder, constructor by constructor. -/

namespace Sys2Proof.Laws.RoundTrip

/-- A well-formed instruction comes back from its word. -/
def Statement (i : Instr) : Prop := i.wellFormed = true → decode (encode i) = i

/-- The shared step: an instruction with a mnemonic comes back from its word. -/
theorem of_mnemonic (i : Instr) (m : Mnemonic) (h : i.mnemonic = some m) : Statement i := by
  intro _
  have ho : opcodeOf i = (defaultOpcode m).toNat := by simp [opcodeOf, opcodeUnder, h]
  have hf : (decLS (encode i)).op = defaultOpcode m := by
    rw [encode, opField_encodeFields, ho, BitVec.ofNat_toNat, BitVec.setWidth_eq]
  rw [decode_of_opcode _ m hf, encode, operandsOf_encodeFields _ _ _ h]

theorem hlt : Statement .hlt := of_mnemonic _ _ rfl
theorem ldr (r : Gpr) (ix : Option Ixr) (ind : Bool) (addr : BitVec 5) : Statement (.ldr r ix ind addr) := of_mnemonic _ _ rfl
theorem str (r : Gpr) (ix : Option Ixr) (ind : Bool) (addr : BitVec 5) : Statement (.str r ix ind addr) := of_mnemonic _ _ rfl
theorem lda (r : Gpr) (ix : Option Ixr) (ind : Bool) (addr : BitVec 5) : Statement (.lda r ix ind addr) := of_mnemonic _ _ rfl
theorem amr (r : Gpr) (ix : Option Ixr) (ind : Bool) (addr : BitVec 5) : Statement (.amr r ix ind addr) := of_mnemonic _ _ rfl
theorem smr (r : Gpr) (ix : Option Ixr) (ind : Bool) (addr : BitVec 5) : Statement (.smr r ix ind addr) := of_mnemonic _ _ rfl
theorem air (r : Gpr) (imm : BitVec 5) : Statement (.air r imm) := of_mnemonic _ _ rfl
theorem sir (r : Gpr) (imm : BitVec 5) : Statement (.sir r imm) := of_mnemonic _ _ rfl
theorem jz (r : Gpr) (ix : Option Ixr) (ind : Bool) (addr : BitVec 5) : Statement (.jz r ix ind addr) := of_mnemonic _ _ rfl
theorem jne (r : Gpr) (ix : Option Ixr) (ind : Bool) (addr : BitVec 5) : Statement (.jne r ix ind addr) := of_mnemonic _ _ rfl
theorem jcc (cc : BitVec 2) (ix : Option Ixr) (ind : Bool) (addr : BitVec 5) : Statement (.jcc cc ix ind addr) := of_mnemonic _ _ rfl
theorem unassigned_0o13 : Statement .unassigned_0o13 := nofun
theorem unassigned_0o14 : Statement .unassigned_0o14 := nofun
theorem rfs (imm : BitVec 5) : Statement (.rfs imm) := of_mnemonic _ _ rfl
theorem sob (r : Gpr) (ix : Option Ixr) (ind : Bool) (addr : BitVec 5) : Statement (.sob r ix ind addr) := of_mnemonic _ _ rfl
theorem jge (r : Gpr) (ix : Option Ixr) (ind : Bool) (addr : BitVec 5) : Statement (.jge r ix ind addr) := of_mnemonic _ _ rfl
theorem unassigned_0o20 : Statement .unassigned_0o20 := nofun
theorem unassigned_0o21 : Statement .unassigned_0o21 := nofun
theorem unassigned_0o22 : Statement .unassigned_0o22 := nofun
theorem unassigned_0o23 : Statement .unassigned_0o23 := nofun
theorem unassigned_0o24 : Statement .unassigned_0o24 := nofun
theorem unassigned_0o25 : Statement .unassigned_0o25 := nofun
theorem unassigned_0o26 : Statement .unassigned_0o26 := nofun
theorem unassigned_0o27 : Statement .unassigned_0o27 := nofun
theorem trap : Statement .trap := of_mnemonic _ _ rfl
theorem src (r : Gpr) (count : BitVec 4) (lr al : BitVec 1) : Statement (.src r count lr al) := of_mnemonic _ _ rfl
theorem rrc (r : Gpr) (count : BitVec 4) (lr al : BitVec 1) : Statement (.rrc r count lr al) := of_mnemonic _ _ rfl
theorem unassigned_0o33 : Statement .unassigned_0o33 := nofun
theorem unassigned_0o34 : Statement .unassigned_0o34 := nofun
theorem unassigned_0o35 : Statement .unassigned_0o35 := nofun
theorem unassigned_0o36 : Statement .unassigned_0o36 := nofun
theorem unassigned_0o37 : Statement .unassigned_0o37 := nofun
theorem unassigned_0o40 : Statement .unassigned_0o40 := nofun
theorem ldx (ix : Option Ixr) (ind : Bool) (addr : BitVec 5) : Statement (.ldx ix ind addr) := of_mnemonic _ _ rfl
theorem stx (ix : Option Ixr) (ind : Bool) (addr : BitVec 5) : Statement (.stx ix ind addr) := of_mnemonic _ _ rfl
theorem unassigned_0o43 : Statement .unassigned_0o43 := nofun
theorem unassigned_0o44 : Statement .unassigned_0o44 := nofun
theorem unassigned_0o45 : Statement .unassigned_0o45 := nofun
theorem unassigned_0o46 : Statement .unassigned_0o46 := nofun
theorem unassigned_0o47 : Statement .unassigned_0o47 := nofun
theorem unassigned_0o50 : Statement .unassigned_0o50 := nofun
theorem unassigned_0o51 : Statement .unassigned_0o51 := nofun
theorem unassigned_0o52 : Statement .unassigned_0o52 := nofun
theorem unassigned_0o53 : Statement .unassigned_0o53 := nofun
theorem unassigned_0o54 : Statement .unassigned_0o54 := nofun
theorem unassigned_0o55 : Statement .unassigned_0o55 := nofun
theorem unassigned_0o56 : Statement .unassigned_0o56 := nofun
theorem unassigned_0o57 : Statement .unassigned_0o57 := nofun
theorem unassigned_0o60 : Statement .unassigned_0o60 := nofun
theorem inp (r : Gpr) (devid : BitVec 5) : Statement (.inp r devid) := of_mnemonic _ _ rfl
theorem out (r : Gpr) (devid : BitVec 5) : Statement (.out r devid) := of_mnemonic _ _ rfl
theorem chk (r : Gpr) (devid : BitVec 5) : Statement (.chk r devid) := of_mnemonic _ _ rfl
theorem unassigned_0o64 : Statement .unassigned_0o64 := nofun
theorem unassigned_0o65 : Statement .unassigned_0o65 := nofun
theorem unassigned_0o66 : Statement .unassigned_0o66 := nofun
theorem unassigned_0o67 : Statement .unassigned_0o67 := nofun
theorem mlt (rx ry : Gpr) : Statement (.mlt rx ry) := of_mnemonic _ _ rfl
theorem dvd (rx ry : Gpr) : Statement (.dvd rx ry) := of_mnemonic _ _ rfl
theorem trr (rx ry : Gpr) : Statement (.trr rx ry) := of_mnemonic _ _ rfl
theorem andr (rx ry : Gpr) : Statement (.andr rx ry) := of_mnemonic _ _ rfl
theorem orr (rx ry : Gpr) : Statement (.orr rx ry) := of_mnemonic _ _ rfl
theorem notr (rx : Gpr) : Statement (.notr rx) := of_mnemonic _ _ rfl
theorem unassigned_0o76 : Statement .unassigned_0o76 := nofun
theorem unassigned_0o77 : Statement .unassigned_0o77 := nofun

end Sys2Proof.Laws.RoundTrip
end

