-- ==== Sys2Proof/Tests/Slice0.lean ====
section
/-! SUPPORT. The model's own tests. Words, start states and results are those of spec/95_test_vectors.md, named in each
docstring; none comes from this model. The theorems named `witness_…` show, for each statement of
Certificates/Slice0/Obligations.lean that has hypotheses, a state and operands that meet them. -/

namespace Sys2Proof.Tests
open Sys2Proof Sys2Proof.Machine

/-- The reset state with these words poked. -/
def boot (cells : List (Nat × Word)) : State := { State.reset with memory := ⟨cells, .none, 0⟩ }

/-- What a step leaves, read through `f`. -/
def after {α : Type} (s : State) (f : State → α) : Option α :=
  match step s with
  | .next t => some (f t)
  | .fault _ => none
  | .refused _ => none

/-- What an execute phase leaves, read through `f`. -/
def afterExec {α : Type} (i : Instr) (s : State) (f : State → α) : Option α :=
  match exec i s with
  | .next t => some (f t)
  | .fault _ => none
  | .refused _ => none

/-! ### WellFormed -/

theorem test_wf_ldx_ix_zero : (Instr.ldx none true 31).wellFormed = false := by decide
theorem test_wf_stx_ix_zero : (Instr.stx none false 0).wellFormed = false := by decide
theorem test_wf_ldx : (Instr.ldx (some .x3) true 31).wellFormed = true := by decide
theorem test_wf_unassigned : ∀ i ∈ Instr.unassigned, i.wellFormed = false := by decide

/-! ### Words (95_test_vectors.md 2.1; the bits are the table's) -/

theorem test_word_ldr : decode 0b0000011110111111#16 = .ldr .r3 (some .x2) true 31 ∧ encode (.ldr .r3 (some .x2) true 31) = 0b0000011110111111#16 := by decide
theorem test_word_str : decode 0b0000101001000111#16 = .str .r2 (some .x1) false 7 ∧ encode (.str .r2 (some .x1) false 7) = 0b0000101001000111#16 := by decide
theorem test_word_lda : decode 0b0000110111101010#16 = .lda .r1 (some .x3) true 10 ∧ encode (.lda .r1 (some .x3) true 10) = 0b0000110111101010#16 := by decide
theorem test_word_ldx : decode 0b1000010011111111#16 = .ldx (some .x3) true 31 ∧ encode (.ldx (some .x3) true 31) = 0b1000010011111111#16 := by decide
theorem test_word_stx : decode 0b1000100010000101#16 = .stx (some .x2) false 5 ∧ encode (.stx (some .x2) false 5) = 0b1000100010000101#16 := by decide
theorem test_word_hlt : decode 0b0000000000000000#16 = .hlt ∧ encode (.hlt) = 0b0000000000000000#16 := by decide
theorem test_word_air : decode 0b0001101000011111#16 = .air .r2 31 ∧ encode (.air .r2 31) = 0b0001101000011111#16 := by decide
theorem test_word_sir : decode 0b0001110100000001#16 = .sir .r1 1 ∧ encode (.sir .r1 1) = 0b0001110100000001#16 := by decide
theorem test_word_jz : decode 0b0010000110110100#16 = .jz .r1 (some .x2) true 20 ∧ encode (.jz .r1 (some .x2) true 20) = 0b0010000110110100#16 := by decide
theorem test_word_mlt : decode 0b1110000010000000#16 = .mlt .r0 .r2 ∧ encode (.mlt .r0 .r2) = 0b1110000010000000#16 := by decide
theorem test_word_trap : decode 0b0110000000000000#16 = .trap ∧ encode (.trap) = 0b0110000000000000#16 := by decide
theorem test_word_amr : decode 0b0001001001001001#16 = .amr .r2 (some .x1) false 9 ∧ encode (.amr .r2 (some .x1) false 9) = 0b0001001001001001#16 := by decide
theorem test_word_smr : decode 0b0001010000111110#16 = .smr .r0 none true 30 ∧ encode (.smr .r0 none true 30) = 0b0001010000111110#16 := by decide
theorem test_word_jne : decode 0b0010011111000000#16 = .jne .r3 (some .x3) false 0 ∧ encode (.jne .r3 (some .x3) false 0) = 0b0010011111000000#16 := by decide
theorem test_word_jcc : decode 0b0010101001110001#16 = .jcc 2 (some .x1) true 17 ∧ encode (.jcc 2 (some .x1) true 17) = 0b0010101001110001#16 := by decide
theorem test_word_rfs : decode 0b0011010000001100#16 = .rfs 12 ∧ encode (.rfs 12) = 0b0011010000001100#16 := by decide
theorem test_word_sob : decode 0b0011100100000011#16 = .sob .r1 none false 3 ∧ encode (.sob .r1 none false 3) = 0b0011100100000011#16 := by decide
theorem test_word_jge : decode 0b0011110010011111#16 = .jge .r0 (some .x2) false 31 ∧ encode (.jge .r0 (some .x2) false 31) = 0b0011110010011111#16 := by decide
theorem test_word_dvd : decode 0b1110011101000000#16 = .dvd .r3 .r1 ∧ encode (.dvd .r3 .r1) = 0b1110011101000000#16 := by decide
theorem test_word_trr : decode 0b1110100101000000#16 = .trr .r1 .r1 ∧ encode (.trr .r1 .r1) = 0b1110100101000000#16 := by decide
theorem test_word_and : decode 0b1110110011000000#16 = .andr .r0 .r3 ∧ encode (.andr .r0 .r3) = 0b1110110011000000#16 := by decide
theorem test_word_orr : decode 0b1111001111000000#16 = .orr .r3 .r3 ∧ encode (.orr .r3 .r3) = 0b1111001111000000#16 := by decide
theorem test_word_not : decode 0b1111011100000000#16 = .notr .r3 ∧ encode (.notr .r3) = 0b1111011100000000#16 := by decide
theorem test_word_src : decode 0b0110010110111100#16 = .src .r1 15 0 1 ∧ encode (.src .r1 15 0 1) = 0b0110010110111100#16 := by decide
theorem test_word_rrc : decode 0b0110101101100100#16 = .rrc .r3 9 1 0 ∧ encode (.rrc .r3 9 1 0) = 0b0110101101100100#16 := by decide
theorem test_word_in : decode 0b1100011000011111#16 = .inp .r2 31 ∧ encode (.inp .r2 31) = 0b1100011000011111#16 := by decide
theorem test_word_out : decode 0b1100100100000001#16 = .out .r1 1 ∧ encode (.out .r1 1) = 0b1100100100000001#16 := by decide
theorem test_word_chk : decode 0b1100110000000000#16 = .chk .r0 0 ∧ encode (.chk .r0 0) = 0b1100110000000000#16 := by decide

/-- The unassigned rows: the opcode's six bits, then ten bits of any value (42_halt_and_unsupported.md R224). -/
theorem test_words_unassigned_1 :
    decode 0b0010110000000000#16 = .unassigned_0o13 ∧
    decode 0b0011000000000000#16 = .unassigned_0o14 ∧
    decode 0b0100000000000000#16 = .unassigned_0o20 ∧
    decode 0b0100010000000000#16 = .unassigned_0o21 ∧
    decode 0b0100100000000000#16 = .unassigned_0o22 ∧
    decode 0b0100110000000000#16 = .unassigned_0o23 ∧
    decode 0b0101000000000000#16 = .unassigned_0o24 ∧
    decode 0b0101010000000000#16 = .unassigned_0o25 ∧
    decode 0b0101100000000000#16 = .unassigned_0o26 ∧
    decode 0b0101110000000000#16 = .unassigned_0o27 ∧
    decode 0b0110110000000000#16 = .unassigned_0o33 ∧
    decode 0b0111000000000000#16 = .unassigned_0o34 := by
  decide

theorem test_words_unassigned_2 :
    decode 0b0111011111111111#16 = .unassigned_0o35 ∧
    decode 0b0111101111111111#16 = .unassigned_0o36 ∧
    decode 0b0111111111111111#16 = .unassigned_0o37 ∧
    decode 0b1000001111111111#16 = .unassigned_0o40 ∧
    decode 0b1000111111111111#16 = .unassigned_0o43 ∧
    decode 0b1001001111111111#16 = .unassigned_0o44 ∧
    decode 0b1001011111111111#16 = .unassigned_0o45 ∧
    decode 0b1001101111111111#16 = .unassigned_0o46 ∧
    decode 0b1001111111111111#16 = .unassigned_0o47 ∧
    decode 0b1010001111111111#16 = .unassigned_0o50 ∧
    decode 0b1010011111111111#16 = .unassigned_0o51 ∧
    decode 0b1010101111111111#16 = .unassigned_0o52 := by
  decide

theorem test_words_unassigned_3 :
    decode 0b1010110101010101#16 = .unassigned_0o53 ∧
    decode 0b1011000101010101#16 = .unassigned_0o54 ∧
    decode 0b1011010101010101#16 = .unassigned_0o55 ∧
    decode 0b1011100101010101#16 = .unassigned_0o56 ∧
    decode 0b1011110101010101#16 = .unassigned_0o57 ∧
    decode 0b1100000101010101#16 = .unassigned_0o60 ∧
    decode 0b1101000101010101#16 = .unassigned_0o64 ∧
    decode 0b1101010101010101#16 = .unassigned_0o65 ∧
    decode 0b1101100101010101#16 = .unassigned_0o66 ∧
    decode 0b1101110101010101#16 = .unassigned_0o67 ∧
    decode 0b1111100101010101#16 = .unassigned_0o76 ∧
    decode 0b1111110101010101#16 = .unassigned_0o77 := by
  decide

/-- The encoders mask (95_test_vectors.md, corner cases of 2.1). -/
theorem test_encoders_mask :
    encLS 63 3 3 1 31 = 0xFFFF#16 ∧ encLS 65 5 4 2 33 = 0x0501#16 ∧ encRR 0o70 7 6 = 0xE380#16 ∧
      encSH 0o31 1 1 0 31 = 0x65BC#16 ∧ encIO 0o61 3 33 = 0xC701#16 := by decide

/-- 95_test_vectors.md 2.2, the word 5A5A in the four layouts. -/
theorem test_decoders :
    decLS 0x5A5A#16 = ⟨22, 2, 1, 0, 26⟩ ∧ decRR 0x5A5A#16 = ⟨22, 2, 1⟩ ∧ decSH 0x5A5A#16 = ⟨22, 2, 0, 1, 6⟩ ∧
      decIO 0x5A5A#16 = ⟨22, 2, 26⟩ := by decide

/-- The parameter `TRAP_LAYOUT` as the fields of LS below the opcode (30_encoding.md R101), and as none. -/
theorem test_trap_operands :
    trapOperands [⟨8, 2⟩, ⟨6, 2⟩, ⟨5, 1⟩, ⟨0, 5⟩] 0b0110001001100111#16 = [2, 1, 1, 7] ∧
      trapOperands [] 0x63FF#16 = [] := by decide

/-- The parameter `CC_BIT_MEANING` as the bit numbers themselves. -/
theorem test_conditions : { State.reset with cc := 0b1010#4 }.conditions (fun bit => bit.val) = [1, 3] := by decide

/-- A table word is one 16-bit word; it is stored where the next step fetches, and runs. -/
theorem test_table_word : decodeTableWord 16 0x0614 = some (.ldr .r2 none false 20) ∧ decodeTableWord 32 0 = none := by
  decide

theorem test_with_fetch_word :
    after (State.reset.withFetchWord 16 0x0D1F) (fun t => (t.gpr1, t.pc, t.ir)) = some (0x001F#16, 1#12, 0x0D1F#16) := by
  decide

/-! ### Steps -/

/-- V-LDR-3: the index wraps modulo 4096. -/
theorem test_ldr_wraps :
    after { boot [(0, 0x04C5#16), (4, 0x1111#16)] with ixr3 := 0xFFFF#16 } (fun t => (t.gpr0, t.mar, t.mbr, t.pc))
      = some (0x1111#16, 4#12, 0x1111#16, 1#12) := by decide

/-- V-LDR-8: the indirection succeeds and the data read is refused. -/
theorem test_ldr_data_fault :
    after { boot [(0, 0x0429#16), (9, 0x0800#16)] with gpr0 := 7#16 }
      (fun t => (t.gpr0, t.mar, t.mbr, t.halted, t.memFault))
      = some (7#16, 2048#12, 0x0800#16, false, some (.range 2048)) := by decide

/-- V-STR-4: a pointer masked to 12 bits. -/
theorem test_str_indirect :
    after { boot [(0, 0x0B28#16), (8, 0x1064#16)] with gpr3 := 0x00FF#16 }
      (fun t => (t.memory.word 100, t.memory.word 8, t.mar, t.mbr)) = some (0x00FF#16, 0x1064#16, 100#12, 0x00FF#16) := by
  decide

/-- V-STR-5: a store over its own word; IR keeps the word executed, and the zeroed word leaves the list. -/
theorem test_str_over_itself :
    after (boot [(0, 0x0900#16)]) (fun t => (t.memory.cells, t.ir, t.mar, t.mbr)) = some ([], 0x0900#16, 0#12, 0#16) := by
  decide

/-- V-LDA-3: an address above 2047 is loaded and no fault is raised. -/
theorem test_lda_no_access :
    after { boot [(0, 0x0C45#16)] with ixr1 := 4000#16 } (fun t => (t.gpr0, t.mar, t.mbr, t.memFault))
      = some (0x0FA5#16, 0#12, 0x0C45#16, none) := by decide

/-- V-LDA-4: the pointer's low 12 bits, not the word at the pointer. -/
theorem test_lda_indirect :
    after (boot [(0, 0x0F23#16), (3, 0xABCD#16)]) (fun t => (t.gpr3, t.mar, t.mbr))
      = some (0x0BCD#16, 3#12, 0xABCD#16) := by decide

/-- V-LDX-2 and V-LDX-4: the old index register plays no part in the address; where the data read is refused, the pointer
word stays in MBR. -/
theorem test_ldx_unindexed :
    after { boot [(0, 0x84E5#16), (5, 0x0321#16), (801, 0xFEDC#16)] with ixr3 := 7#16 }
        (fun t => (t.ixr3, t.mar, t.mbr)) = some (0xFEDC#16, 801#12, 0xFEDC#16) ∧
      after { boot [(0, 0x84A6#16), (6, 0x0900#16)] with ixr2 := 0x4444#16 } (fun t => (t.ixr2, t.mar, t.mbr))
        = some (0x4444#16, 2304#12, 0x0900#16) := by decide

/-- V-LDX-5: IX = 0 halts before any access. -/
theorem test_ldx_ix_zero :
    after (boot [(0, 0x8412#16), (18, 0x00AA#16)]) (fun t => (t.halted, t.pc, t.mar, t.mbr))
      = some (true, 1#12, 0#12, 0x8412#16) := by decide

/-- V-STX-2: the highest address. -/
theorem test_stx_indirect :
    after { boot [(0, 0x8862#16), (2, 2047#16)] with ixr1 := 0xFFFF#16 } (fun t => (t.memory.word 2047, t.mar, t.mbr))
      = some (0xFFFF#16, 2047#12, 0xFFFF#16) := by decide

/-- V-STX-4: a refused store leaves memory alone; MAR and MBR keep what was written before. -/
theorem test_stx_data_fault :
    after { boot [(0, 0x88E3#16), (3, 0x0FFF#16)] with ixr3 := 1#16 } (fun t => (t.memory.cells, t.mar, t.mbr, t.pc))
      = some ([(0, 0x88E3#16), (3, 0x0FFF#16)], 4095#12, 1#16, 1#12) := by decide

/-- V-HLT-2: the low bits of a HLT word are ignored. -/
theorem test_hlt :
    after { boot [(0, 0x03FF#16)] with gpr3 := 5#16, ixr3 := 6#16 } (fun t => (t.halted, t.pc, t.mfr, t.ir, t.gpr3, t.ixr3))
      = some (true, 1#12, 0#4, 0x03FF#16, 5#16, 6#16) := by decide

/-- The end state of V-ILL-n for a word: the fault code, HALTED, and no effect on registers or memory. -/
def endsIllegal (w : Word) : Bool :=
  after { boot [(0, w), (20, 0x2222#16)] with gpr2 := 1#16, ixr2 := 3#16 }
    (fun t => t.mfr == 0b0100#4 && t.halted && t.gpr2 == 1#16 && t.ixr2 == 3#16 && t.pc == 1#12 &&
      t.memory.cells == [(0, w), (20, 0x2222#16)]) == some true

/-- V-ILL-n, and the words of the other mnemonics of 2.1. -/
theorem test_illegal_opcodes :
    [0x1A1F#16, 0x1D01#16, 0x21B4#16, 0xE080#16, 0x6000#16, 0x65BC#16, 0xC61F#16, 0xF700#16, 0x1000#16, 0x8000#16,
      0x9000#16, 0xFC00#16, 0x143E#16, 0x27C0#16, 0x2A71#16, 0x340C#16, 0x3903#16, 0x3C9F#16, 0xE740#16, 0xE940#16,
      0xECC0#16, 0xF3C0#16, 0x6B64#16, 0xC901#16, 0xCC00#16].all endsIllegal = true := by decide

/-- V-FET-2: a fetch from outside the memory writes MAR only. -/
theorem test_fetch_outside :
    after { State.reset with pc := 4095#12 } (fun t => t)
      = some { State.reset with pc := 4095#12, mar := 4095#12, memFault := some (.range 4095) } := by decide

/-- V-HLT-3. -/
theorem test_already_halted :
    executeOneStep { State.reset with halted := true } = (.alreadyHalted, { State.reset with halted := true }) := by decide

/-- The outcomes of V-LDR-1, V-LDR-9, V-HLT-1, E4 and V-STX-3. -/
theorem test_outcomes :
    stepOutcome (boot [(0, 0x0614#16)]) = .stepped .ldr ∧
      stepOutcome { boot [(0, 0x0461#16)] with ixr1 := 4000#16 } = .memFault (.range 4001) ∧
      stepOutcome State.reset = .haltedBy .hlt ∧ stepOutcome (boot [(0, 0xFC00#16)]) = .haltedBy .illegalOpcode ∧
      stepOutcome (boot [(0, 0x8825#16)]) = .haltedBy .illegalOperand := by decide

/-! ### The Memory's protocol and the host (95_test_vectors.md 2.10, 2.11) -/

/-- Lines 9, 12, 15 and 18 of 2.10. -/
theorem test_protocol :
    (hostOp (.transferWrite 1#16) { State.reset with memory := ⟨[], .read, 100⟩ }).2.memory = ⟨[], .read, 100⟩ ∧
      (hostOp (.latchRead 100) { State.reset with memory := ⟨[], .write, 7⟩ }).2.memory = ⟨[], .read, 100⟩ ∧
      hostOp (.latchRead 2048) { State.reset with memory := ⟨[], .read, 2047⟩ }
        = (.memFault (.range 2048), { State.reset with memory := ⟨[], .read, 2047⟩ }) ∧
      (hostOp (.poke 2047 0x1111) { State.reset with memory := ⟨[], .write, 2047⟩ }).2.memory
        = ⟨[(2047, 0x1111#16)], .write, 2047⟩ := by decide

/-- R300: the fetch's latch replaces a stale one. -/
theorem test_stale_latch :
    after { State.reset with memory := ⟨[(0, 0x0D03#16)], .write, 50⟩ } (fun t => (t.gpr1, t.memory))
      = some (3#16, ⟨[(0, 0x0D03#16)], .none, 0⟩) := by decide

/-- V-BND-4, V-BND-5, V-BND-6 and V-BND-8. -/
theorem test_host :
    ((hostOp (.writeWord 4095 7) State.reset).1 = .memFault (.range 4095) ∧
        (hostOp (.writeWord 4095 7) State.reset).2.mar = 4095#12 ∧ (hostOp (.writeWord 4095 7) State.reset).2.mbr = 7#16) ∧
      hostOp (.readWord 4096) State.reset = (.memFault (.range 4096), State.reset) ∧
      hostOp (.writeWord 5 65536) State.reset = (.memFault (.range 65536), State.reset) ∧
      (hostOp (.computeEffectiveAddress 2 1 12) { boot [(11, 0x8FFE#16)] with ixr2 := 0xFFFF#16 }).1 = .address 4094#12 := by
  decide

/-- V-FET-3. -/
theorem test_fetch_one_word_outside :
    hostOp .fetchOneWord { State.reset with pc := 2048#12 }
      = (.memFault (.range 2048),
        { State.reset with pc := 2048#12, mar := 2048#12, memFault := some (.range 2048) }) := by decide

/-- Program P5: a run ends at its range fault. -/
theorem test_run_stops_at_fault :
    (run ⟨10, by decide⟩ (boot [(0, 0x844A#16), (1, 0x0440#16), (2, 0x0541#16), (3, 0x0E03#16), (10, 0x07FF#16), (2047, 0xCAFE#16)])).1
      = .memFault (.range 2048) := by decide

/-! ### Witnesses

Each meets all hypotheses of one clause of the statement it is named after, at a boundary of the clause's range. -/

theorem witness_CodecRoundTripInAllFourLayouts :
    (63 < 64 ∧ 3 < 4 ∧ 1 < 2 ∧ 31 < 32 ∧ 15 < 16) ∧ unusedRR 0xE080#16 = 0 ∧ unusedSH 0x65BC#16 = 0 ∧
      unusedIO 0xC61F#16 = 0 := by decide

/-- The lowest and the highest unused bit of each layout, and a used bit beside them (R102 to R104). -/
theorem test_unused_bits :
    unusedRR 0x0021#16 = 33 ∧ unusedRR 0xFFC0#16 = 0 ∧ unusedSH 0x0003#16 = 3 ∧ unusedSH 0xFFFC#16 = 0 ∧
      unusedIO 0x00A0#16 = 5 ∧ unusedIO 0xFF1F#16 = 0 := by decide

theorem witness_EncodersMaskAndPackTheirFields : 5 < 6 ∧ 1 < 2 ∧ (5 ≤ 5 ∧ 5 < 8) ∧ 5 ≤ 7 ∧ 7 < 8 := by decide

theorem witness_DecodeReadsBackEncode :
    (Instr.ldx (some .x3) true 31).wellFormed = true ∧ (Instr.src .r3 15 1 1).wellFormed = true := by decide

theorem witness_DecodeReadsBackEncodeUnderEveryNumbering :
    defaultOpcode.Admissible ∧ (Instr.jcc 3 none true 31).wellFormed = true := by
  refine ⟨⟨fun m k h => ?_, fun m m' h => ?_⟩, rfl⟩
  · cases m <;> cases h <;> rfl
  · cases m <;> cases m' <;> first | rfl | exact absurd h (by decide)

theorem witness_CanonicalWordMeansTheSame :
    (0x07FF#16).toNat / 1024 ∈ [1, 2, 3, 4, 5, 8, 9, 10, 14, 15] ∧
      (0x3FFF#16).toNat / 1024 ∈ [1, 2, 3, 4, 5, 8, 9, 10, 14, 15] ∧ (0x87FF#16).toNat / 1024 ∈ [33, 34] ∧
      (0x8BFF#16).toNat / 1024 ∈ [33, 34] := by decide

theorem witness_OpcodeFieldAloneSelectsTheInstruction :
    (0x8000#16).toNat / 1024 = (0x83FF#16).toNat / 1024 ∧ (decode 0x8000#16).mnemonic = none := by decide

theorem witness_DecodeTakesOperandsFromLsFields :
    ∀ op ∈ [0, 1, 2, 3, 33, 34],
      gprNumber .r3 = (encLS op 3 2 1 31).toNat / 256 % 4 ∧ ixNumber (some .x2) = (encLS op 3 2 1 31).toNat / 64 % 4 ∧
        indirectNumber true = (encLS op 3 2 1 31).toNat / 32 % 2 ∧ (31#5).toNat = (encLS op 3 2 1 31).toNat % 32 ∧
        (encLS op 3 2 1 31).toNat / 1024 = op := by decide

theorem witness_LatchRecordsAddressAndKind : 0 < 2048 ∧ 2047 < 2048 ∧ 2048 ≤ 2048 := by decide

theorem witness_LatchOutOfRangeChangesNothing : (-1 : Int) < 0 ∧ (2048 : Int) ≤ 2048 := by decide

theorem witness_TransferServesThePendingLatch :
    Memory.wf ⟨[(2047, 1#16)], .read, 2047⟩ = true ∧ Memory.wf ⟨[(0, 1#16)], .write, 0⟩ = true ∧
      State.reset.memory.wf = true ∧ State.reset.memory.pending ≠ .read ∧ State.reset.memory.pending ≠ .write := by decide

theorem witness_MismatchedTransferIsAProtocolFault : State.reset.memory.pending ≠ .read ∧ State.reset.memory.pending ≠ .write := by
  decide

theorem witness_PeekAndPokeBypassTheProtocol :
    State.reset.memory.wf = true ∧ 2047 < 2048 ∧ (-1 : Int) < 0 ∧ (2048 : Int) ≤ 2048 ∧ (0 : Int) ≤ 65535 ∧
      (65535 : Int) < 65536 := by decide

theorem witness_CpuAccessReplacesAPendingLatch : (2047#12).toNat < 2048 ∧ State.reset.pc.toNat < 2048 := by decide

theorem witness_CanonicalMemoriesWithEqualWordsAreEqual :
    ∃ m m' : Memory, m.wf = true ∧ m'.wf = true ∧ m.pending = m'.pending ∧ m.latchedAddr = m'.latchedAddr ∧
      ∀ a, a < 2048 → m.word a = m'.word a :=
  ⟨⟨[(2047, 1#16)], .none, 0⟩, ⟨[(2047, 1#16)], .none, 0⟩, by decide, by decide, rfl, rfl, fun _ _ => rfl⟩

/-- An image at both ends of the memory that names address 0 twice. -/
def twiceAtZero : List (Nat × Word) := [(0, 5#16), (2047, 1#16), (0, 0xFFFF#16)]

theorem witness_PokingLoadsTheWords :
    State.reset.memory.wf = true ∧ (∀ c ∈ twiceAtZero, c.1 < 2048) ∧
      (twiceAtZero = [(0, 5#16)] ++ (2047, 1#16) :: [(0, 0xFFFF#16)] ∧
        2047 ∉ ([(0, 0xFFFF#16)] : List (Nat × Word)).map (·.1)) ∧
      (twiceAtZero = [(0, 5#16), (2047, 1#16)] ++ (0, 0xFFFF#16) :: [] ∧ 0 ∉ ([] : List (Nat × Word)).map (·.1)) ∧
      1 ∉ twiceAtZero.map (·.1) := by decide

theorem witness_FetchSequence :
    { State.reset with pc := 2047#12 }.pc.toNat < 2048 ∧ 2048 ≤ { State.reset with pc := 2048#12 }.pc.toNat := by decide

/-- A RUNNING machine at the last address of the memory, with `LDA 0,0,1` there (V-FET-1). -/
def lastWord : State := { boot [(2047, 0x0C01#16)] with pc := 2047#12 }

theorem witness_StepRunsTheDecodedInstruction :
    lastWord.halted = false ∧ lastWord.pc.toNat < 2048 ∧
      decode (lastWord.memory.word lastWord.pc.toNat) = .lda .r0 none false 1 := by decide

theorem witness_StepOfAHaltedMachineChangesNothing : { State.reset with halted := true }.halted = true := by decide

theorem witness_StepFromOutsideMemoryFaults :
    { State.reset with pc := 2048#12 }.halted = false ∧ 2048 ≤ { State.reset with pc := 2048#12 }.pc.toNat := by decide

theorem witness_EffectiveAddressIndexesThenIndirects :
    (0xF005#16).toNat % 4096 = ({ State.reset with ixr1 := 5#16 }.ixr .x1).toNat % 4096 := by decide

theorem witness_CpuAccessGoesThroughMarAndMbr :
    State.reset.memory.wf = true ∧ (2047#12).toNat < 2048 ∧ 2048 ≤ (2048#12).toNat := by decide

/-- Index register 1 at the last address of the memory, which holds a pointer to itself. -/
def edge : State := { boot [(2047, 2047#16)] with ixr1 := 2047#16, gpr1 := 9#16 }

/-- Index register 1 just past the memory; address 5 holds a pointer there. -/
def past : State := { boot [(5, 2048#16)] with ixr1 := 2048#16, gpr1 := 9#16, ixr2 := 8#16 }

/-- The completion, the pointer fault and the data fault, with and without indirection. -/
theorem witness_LdrLoadsTheWordAtTheEffectiveAddress :
    ((indexedAddress (some .x1) 0 edge).toNat < 2048 ∧ (finalAddress (some .x1) true 0 edge).toNat < 2048 ∧
        (finalAddress (some .x1) false 0 edge).toNat < 2048) ∧
      2048 ≤ (indexedAddress (some .x1) 0 past).toNat ∧
      ((indexedAddress none 5 past).toNat < 2048 ∧ 2048 ≤ (finalAddress none true 5 past).toNat ∧
        2048 ≤ (finalAddress (some .x1) false 0 past).toNat) := by decide

theorem witness_StrStoresTheRegisterAtTheEffectiveAddress :
    edge.memory.wf = true ∧ past.memory.wf = true ∧ (indexedAddress (some .x1) 0 edge).toNat < 2048 ∧
      (finalAddress (some .x1) true 0 edge).toNat < 2048 ∧ 2048 ≤ (indexedAddress (some .x1) 0 past).toNat ∧
      (indexedAddress none 5 past).toNat < 2048 ∧ 2048 ≤ (finalAddress none true 5 past).toNat := by decide

theorem witness_LdaLoadsTheEffectiveAddressItself :
    (indexedAddress (some .x1) 0 edge).toNat < 2048 ∧ 2048 ≤ (indexedAddress (some .x1) 0 past).toNat := by decide

theorem witness_LdxLoadsTheIndexRegister :
    (finalAddress none true 5 { boot [(5, 2047#16)] with ixr2 := 8#16 }).toNat < 2048 ∧
      2048 ≤ (finalAddress none true 5 past).toNat := by decide

theorem witness_StxStoresTheIndexRegister :
    past.memory.wf = true ∧ (finalAddress none false 31 past).toNat < 2048 ∧ 2048 ≤ (finalAddress none true 5 past).toNat := by
  decide

theorem witness_HltSetsHaltedOnly :
    { boot [(2047, 0x03FF#16)] with pc := 2047#12, mfr := 15#4 }.halted = false ∧
      { boot [(2047, 0x03FF#16)] with pc := 2047#12, mfr := 15#4 }.pc.toNat < 2048 ∧
      { boot [(2047, 0x03FF#16)] with pc := 2047#12, mfr := 15#4 }.memory.word 2047 = 0x03FF#16 ∧
      (0x03FF#16).toNat < 1024 := by decide

theorem witness_LoadsKeepEverythingElse :
    (∃ t, exec (.ldr .r0 (some .x1) true 0) edge = .next t) ∧ (∃ t, exec (.lda .r0 (some .x1) true 0) past = .next t) ∧
      (∃ t, exec (.ldx (some .x2) true 5) past = .next t) ∧ ∃ t, exec (.ldx none true 5) past = .next t :=
  ⟨⟨_, rfl⟩, ⟨_, rfl⟩, ⟨_, rfl⟩, ⟨_, rfl⟩⟩

/-- A store at the last address, one that is refused, one whose pointer read is refused. -/
theorem witness_StoresKeepEverythingElse :
    (∃ t, exec (.str .r1 (some .x1) false 0) edge = .next t) ∧
      (∃ s', eaIndexed (some .x1) false 0 edge = .ok 2047#12 s') ∧
      (∃ s', eaIndexed none true 5 past = .ok 2048#12 s') ∧
      (∃ s', eaIndexed (some .x1) true 0 past = .memFault (.range 2048) s') ∧
      (∃ s', eaUnindexed false 31 past = .ok 31#12 s') ∧ (∃ s', eaUnindexed true 5 past = .ok 2048#12 s') :=
  ⟨⟨_, rfl⟩, ⟨_, rfl⟩, ⟨_, rfl⟩, ⟨_, rfl⟩, ⟨_, rfl⟩, ⟨_, rfl⟩⟩

theorem witness_ShiftAndIoMnemonicsAndTrapHalt :
    (0x6000 ≤ (0x6000#16).toNat ∧ (0x6000#16).toNat ≤ 0x63FF) ∧ 0x6000 ≤ (0x63FF#16).toNat ∧ (0x63FF#16).toNat ≤ 0x63FF := by
  decide

theorem witness_UnassignedOpcodesHalt : Instr.unassigned_0o13 ∈ Instr.unassigned ∧ Instr.unassigned_0o77 ∈ Instr.unassigned := by
  decide

theorem witness_OpcodeOutsideTheSubsetHaltsTheStep :
    (boot [(0, 0x13FF#16)]).halted = false ∧ (boot [(0, 0x13FF#16)]).pc.toNat < 2048 ∧
      (boot [(0, 0x13FF#16)]).memory.word (boot [(0, 0x13FF#16)]).pc.toNat = 0x13FF#16 ∧
      (0x13FF#16).toNat / 1024 ∉ [0, 1, 2, 3, 33, 34] := by decide

theorem witness_IxZeroIsTheOnlyIllegalOperand : stepOutcome (boot [(0, 0x8825#16)]) = .haltedBy .illegalOperand := by decide

theorem witness_OutcomeSaysWhatTheStepDid :
    (∃ t, step lastWord = .next t) ∧ lastWord.halted = false ∧
      (∃ t, step { State.reset with halted := true } = .next t) ∧ { State.reset with halted := true }.halted = true :=
  ⟨⟨_, rfl⟩, rfl, ⟨_, rfl⟩, rfl⟩

theorem witness_PcAfterAStep :
    (∃ t, step lastWord = .next t) ∧ (lastWord.halted = false ∧ lastWord.pc.toNat < 2048) ∧
      (∃ t, step { State.reset with pc := 2048#12 } = .next t) ∧ 2048 ≤ { State.reset with pc := 2048#12 }.pc.toNat :=
  ⟨⟨_, rfl⟩, by decide, ⟨_, rfl⟩, by decide⟩

/-- One witness for each clause, at the first and last address where a clause has a bound. -/
theorem witness_MarAndMbrAfterTheExecutePhase :
    (∃ t, exec .hlt edge = .next t) ∧ (illegalInstr .trap = true ∧ ∃ t, exec .trap edge = .next t) ∧
      (∃ t, exec (.ldx none true 5) edge = .next t) ∧ (∃ t, exec (.lda .r0 (some .x1) false 0) past = .next t) ∧
      ((∃ t, exec (.lda .r0 (some .x1) true 0) edge = .next t) ∧ (indexedAddress (some .x1) 0 edge).toNat < 2048) ∧
      ((∃ t, exec (.lda .r0 (some .x1) true 0) past = .next t) ∧ 2048 ≤ (indexedAddress (some .x1) 0 past).toNat) ∧
      ((∃ t, exec (.ldr .r0 (some .x1) true 0) edge = .next t) ∧ (finalAddress (some .x1) true 0 edge).toNat < 2048) ∧
      ((∃ t, exec (.ldr .r0 none true 5) past = .next t) ∧ 2048 ≤ (finalAddress none true 5 past).toNat) ∧
      (∃ t, exec (.str .r1 none true 5) past = .next t) ∧ (∃ t, exec (.str .r1 (some .x1) true 0) past = .next t) ∧
      ((∃ t, exec (.ldx (some .x2) true 5) past = .next t) ∧ 2048 ≤ (finalAddress none true 5 past).toNat) ∧
      ((∃ t, exec (.ldx (some .x2) false 31) past = .next t) ∧ (finalAddress none false 31 past).toNat < 2048) ∧
      (∃ t, exec (.stx (some .x2) true 5) past = .next t) :=
  ⟨⟨_, rfl⟩, ⟨rfl, ⟨_, rfl⟩⟩, ⟨_, rfl⟩, ⟨_, rfl⟩, ⟨⟨_, rfl⟩, by decide⟩, ⟨⟨_, rfl⟩, by decide⟩, ⟨⟨_, rfl⟩, by decide⟩,
    ⟨⟨_, rfl⟩, by decide⟩, ⟨_, rfl⟩, ⟨_, rfl⟩, ⟨⟨_, rfl⟩, by decide⟩, ⟨⟨_, rfl⟩, by decide⟩, ⟨_, rfl⟩⟩

theorem witness_CcIsReadAndWrittenByNoInstruction :
    (∃ t, exec (.ldr .r0 (some .x1) true 0) edge = .next t) ∧ (∃ t, step lastWord = .next t) ∧
      (hostOp (.setReg .cc 15) State.reset).2.cc ≠ State.reset.cc ∧
      (hostOp .resetAll { State.reset with cc := 1#4 }).2.cc ≠ { State.reset with cc := 1#4 }.cc :=
  ⟨⟨_, rfl⟩, ⟨_, rfl⟩, by decide, by decide⟩

theorem witness_GeneralRegistersAreUsedOnlyAsStated :
    afterExec (.ldr .r0 (some .x1) true 0) edge (fun t => decide (t.gpr .r0 ≠ edge.gpr .r0)) = some true ∧
      afterExec (.lda .r3 (some .x1) false 0) edge (fun t => decide (t.gpr .r3 ≠ edge.gpr .r3)) = some true ∧
      ∃ t, exec (.stx (some .x1) false 31) edge = .next t :=
  ⟨by decide, by decide, _, rfl⟩

theorem witness_OnlyLdxAndStoresChangeIndexRegistersAndMemory :
    afterExec (.ldx (some .x3) false 31) { edge with ixr3 := 1#16 } (fun t => t.ixr .x3) = some 0#16 ∧
      afterExec (.str .r1 (some .x1) false 0) edge (fun t => t.memory.word 2047) = some 9#16 ∧
      edge.memory.word 2047 = 2047#16 ∧
      afterExec (.stx (some .x1) false 0) edge (fun t => t.memory.word 0) = some 2047#16 ∧ edge.memory.word 0 = 0#16 := by
  decide

theorem witness_MfrIsWrittenByTheTwoFaultsOnly :
    (∃ t, exec .trap edge = .next t ∧ t.mfr ≠ edge.mfr) ∧ (∃ t, exec (.stx none true 0) edge = .next t ∧ t.mfr ≠ edge.mfr) ∧
      (hostOp (.setReg .mfr 15) State.reset).2.mfr ≠ State.reset.mfr ∧
      (hostOp .executeOneStep (boot [(0, 0xFC00#16)])).2.mfr ≠ (boot [(0, 0xFC00#16)]).mfr := by
  refine ⟨⟨_, rfl, by decide⟩, ⟨_, rfl, ?_⟩, by decide, by decide⟩
  show (if Config.illegalOperandSeed = 0 then 0b0100#4 else Config.illegalOperandSeed) ≠ 0#4
  split
  · decide
  · assumption

theorem witness_OnlyResetLeavesHalted :
    ({ State.reset with halted := true }.halted = true ∧ HostOp.poke 0 1 ≠ .resetAll) ∧
      (State.reset.halted = false ∧ (hostOp .halt State.reset).2.halted = true) ∧
      (hostOp .executeOneStep State.reset).2.halted = true ∧ (hostOp (.runUntilHaltedOrCeiling ⟨1, by decide⟩) State.reset).2.halted = true ∧
      (edge.halted = false ∧ ∃ t, exec .hlt edge = .next t) :=
  ⟨by decide, by decide, by decide, by decide, rfl, _, rfl⟩

theorem witness_StepsKeepTheProtocol : (∃ t, step lastWord = .next t) ∧ lastWord.memory.pending = .none := ⟨⟨_, rfl⟩, rfl⟩

/-- V-STR-6 after its first fetch: `STR 1,0,1` with PC = 1; the same with STX; and a poke at PC. -/
theorem witness_AStoreIsSeenByTheNextFetch :
    (boot [(1, 0xFC00#16)]).memory.wf = true ∧
      finalAddress none false 1 { boot [(1, 0xFC00#16)] with pc := 1#12, gpr1 := 0x0C07#16 } = 1#12 ∧
      (∃ t, exec (.str .r1 none false 1) { boot [(1, 0xFC00#16)] with pc := 1#12, gpr1 := 0x0C07#16 } = .next t) ∧
      (∃ t, exec (.stx (some .x1) false 1) { boot [(1, 0xFC00#16)] with pc := 1#12, ixr1 := 0x0C07#16 } = .next t) ∧
      lastWord.memory.wf = true ∧ lastWord.pc.toNat < 2048 :=
  ⟨by decide, by decide, ⟨_, rfl⟩, ⟨_, rfl⟩, by decide, by decide⟩

/-- A RUNNING state and a HALTED one with a fault code. -/
theorem witness_StepKeepsTheInvariant :
    lastWord.Inv ∧ (∃ t, step lastWord = .next t) ∧ (raiseIllegalOpcode lastWord).Inv :=
  ⟨⟨by decide, rfl, .inl rfl, fun h => absurd rfl h⟩, ⟨_, rfl⟩, ⟨by decide, rfl, .inr (.inl rfl), fun _ => rfl⟩⟩

theorem witness_HostOperationsKeepMemoryCanonical : edge.memory.wf = true := by decide

theorem witness_RunReportsAndContinues :
    (runSteps 1 State.reset).1 = .halted ∧ (runSteps 1 lastWord).1 = .ceilingReached ∧ State.reset.halted = false ∧
      runSteps 2 lastWord = (.memFault (.range 2048), (runSteps 2 lastWord).2) ∧
      stepOutcome { State.reset with pc := 2048#12 } = .memFault (.range 2048) ∧
      (∃ t, step { State.reset with pc := 2048#12 } = .next t) ∧ stepOutcome lastWord = .stepped .lda ∧
      ∃ t, step lastWord = .next t :=
  ⟨by decide, by decide, rfl, by decide, by decide, ⟨_, rfl⟩, by decide, _, rfl⟩

theorem witness_EveryRunStopsWithinTheMemory :
    lastWord.pc.toNat ≤ 2047 ∧ 2048 - lastWord.pc.toNat < (⟨2, by decide⟩ : RunCeiling).val ∧
      State.reset.pc.toNat ≤ 2047 ∧ 2048 - State.reset.pc.toNat < (⟨2049, by decide⟩ : RunCeiling).val := by decide

theorem witness_ResetAllGivesTheAllZeroState :
    { State.reset with halted := true }.halted = true ∧ (hostOp .resetAll { State.reset with halted := true }).2.halted = false := by
  decide

theorem witness_ReadWordAndWriteWord :
    State.reset.memory.wf = true ∧ 2047 < 2048 ∧ (2048 ≤ 2048 ∧ 2048 < 4096) ∧ (2048 ≤ 4095 ∧ 4095 < 4096) ∧
      (-1 : Int) < 0 ∧ (4096 : Int) ≤ 4096 ∧ (65536 : Int) ≤ 65536 ∧ (0 : Int) ≤ 65535 ∧ (65535 : Int) < 65536 := by decide

theorem witness_ComputeEffectiveAddressOfTheHost :
    ((-1 : Int) < 0 ∧ (4 : Int) ≤ 4 ∧ (2 : Int) ≤ 2 ∧ (32 : Int) ≤ 32) ∧
      ((0 : Int) ≤ 3 ∧ (3 : Int) < 4 ∧ (0 : Int) ≤ 1 ∧ (1 : Int) < 2 ∧ (0 : Int) ≤ 31 ∧ (31 : Int) < 32) ∧
      { boot [(17, 23#16)] with ixr1 := 5#16 }.ixr1 = 5 ∧ { boot [(17, 23#16)] with ixr1 := 5#16 }.memory.word 17 = 23 := by
  decide

theorem witness_TheRemainingHostRequests :
    lastWord.pc.toNat < 2048 ∧ 2048 ≤ { State.reset with pc := 2048#12 }.pc.toNat ∧ (∃ t, step lastWord = .next t) ∧
      ((0 : Int) ≤ 2047 ∧ (2047 : Int) < 2048 ∧ (-1 : Int) < 0 ∧ (65536 : Int) ≤ 65536 ∧ (2048 : Int) ≤ 2048) :=
  ⟨by decide, by decide, ⟨_, rfl⟩, by decide⟩

theorem witness_DebugWriteMasksToTheWidth : RegName.cc ≠ .mfr ∧ RegName.gpr .r3 ≠ .gpr .r2 := by decide

theorem witness_RawMemoryRequestsChangeTheMemoryOnly :
    State.reset.memory.wf = true ∧ 2047 < 2048 ∧
      ({ State.reset with memory := ⟨[(2047, 1#16)], .read, 2047⟩ }.memory.wf = true ∧
        { State.reset with memory := ⟨[(2047, 1#16)], .read, 2047⟩ }.memory.pending = .read) ∧
      ({ State.reset with memory := ⟨[(2047, 1#16)], .write, 2047⟩ }.memory.wf = true ∧
        { State.reset with memory := ⟨[(2047, 1#16)], .write, 2047⟩ }.memory.pending = .write) := by decide

theorem witness_EncoderPlacesTheRemainingOperands :
    TrapLayout.Admissible [⟨8, 2⟩, ⟨6, 2⟩, ⟨5, 1⟩, ⟨0, 5⟩] ∧ TrapLayout.Admissible [] := by
  unfold TrapLayout.Admissible
  decide

end Sys2Proof.Tests
end

section
/-! The Memory's protocol and the host's raw access to it (20_memory.md): what each transfer, peek and poke answers, one
equation per case, and the obligations that are put together from them. -/

namespace Sys2Proof.Machine

/-! ### The transfers -/

section
variable (m : Memory) (v : Word)

theorem transferRead_of_read (h : m.pending = .read) :
    m.transferRead = .ok (m.word m.latchedAddr.toNat, { m with pending := .none }) := by
  simp only [Memory.transferRead, h]

theorem transferWrite_of_write (h : m.pending = .write) :
    m.transferWrite v = .ok { m.setWord m.latchedAddr.toNat v with pending := .none } := by
  simp only [Memory.transferWrite, h]

theorem transferRead_of_ne_read (h : m.pending ≠ .read) : m.transferRead = .error .protocol := by
  unfold Memory.transferRead
  split
  · exact absurd ‹m.pending = .read› h
  · rfl
  · rfl

theorem transferWrite_of_ne_write (h : m.pending ≠ .write) : m.transferWrite v = .error .protocol := by
  unfold Memory.transferWrite
  split
  · exact absurd ‹m.pending = .write› h
  · rfl
  · rfl

end

/-- Settles O13: the equation of each transfer, and read after write at the latched address. -/
theorem transferServesThePendingLatch : Obligations.TransferServesThePendingLatch := by
  unfold Obligations.TransferServesThePendingLatch
  intro m hm
  refine ⟨fun hread => ?_, fun hwrite v => ?_, transferRead_of_ne_read m,
    fun hne v => transferWrite_of_ne_write m v hne⟩
  · exact ⟨_, transferRead_of_read m hread, rfl, fun k => word_session m k _ _⟩
  · exact ⟨_, transferWrite_of_write m v hwrite, rfl, word_setWord_same m _ v hm, fun k hk => word_setWord_ne m _ k v hk⟩

/-! ### Peek and poke -/

section
variable (m : Memory) (a : Nat) (v : Word)

theorem peek_of_lt (h : a < Config.memWords) : m.peek a = .ok (m.word a) := if_pos h

theorem peek_of_ge (h : ¬ a < Config.memWords) : m.peek a = .error (.range a) := if_neg h

theorem poke_of_lt (h : a < Config.memWords) : m.poke a v = .ok (m.setWord a v) := if_pos h

end

section
variable (s : State)

theorem hostOp_peek_of_lt (a : Nat) (h : a < Config.memWords) : hostOp (.peek a) s = (.word (s.memory.word a), s) := by
  simp only [hostOp, peek_of_lt s.memory a h]

theorem hostOp_peek_out (a : Int) (h : a < 0 ∨ (Config.memWords : Int) ≤ a) :
    hostOp (.peek a) s = (.memFault (.range a), s) := by
  cases a with
  | ofNat k =>
    have hk : ¬ k < Config.memWords := by
      rw [Int.ofNat_eq_natCast] at h
      omega
    simp only [hostOp, peek_of_ge s.memory k hk, Int.ofNat_eq_natCast]
  | negSucc k => rfl

/-- The value of a word passes the host's check of R72. -/
theorem hostOp_poke_of_lt (a : Nat) (v : Word) (h : a < Config.memWords) :
    hostOp (.poke a v.toNat) s = (.ok, { s with memory := s.memory.setWord a v }) := by
  have hargs : outOfRange [((a : Int), 2048), ((v.toNat : Int), 65536)] = [] := by
    rw [memWords_eq] at h
    rw [outOfRange_cons_in _ _ _ (by omega) (by omega), outOfRange_cons_in _ _ _ (by omega) (by omega), outOfRange_nil]
  rw [hostOp, validated_ok _ _ _ hargs, Int.toNat_natCast, BitVec.ofInt_natCast, BitVec.ofNat_toNat, BitVec.setWidth_eq,
    poke_of_lt s.memory a v h, memoryReply]

theorem hostOp_poke_out (a v : Int) (ha : a < 0 ∨ (Config.memWords : Int) ≤ a) (h0 : 0 ≤ v) (h1 : v < 65536) :
    hostOp (.poke a v) s = (.memFault (.range a), s) := by
  have hargs : outOfRange [(a, 2048), (v, 65536)] = [a] := by
    rw [outOfRange_cons_out a 2048 _ ha, outOfRange_cons_in _ _ _ h0 h1, outOfRange_nil]
  rw [hostOp, validated, hargs, argumentFault]

end

/-- Settles O15: the four cases of a request, and read after write at the poked address. -/
theorem peekAndPokeBypassTheProtocol : Obligations.PeekAndPokeBypassTheProtocol := by
  unfold Obligations.PeekAndPokeBypassTheProtocol
  intro s hwf
  refine ⟨hostOp_peek_of_lt s, hostOp_peek_out s, fun a v ha => ?_, hostOp_poke_out s⟩
  exact ⟨_, hostOp_poke_of_lt s a v ha, word_setWord_same s.memory a v hwf,
    fun k hk => word_setWord_ne s.memory a k v hk, rfl, rfl⟩

end Sys2Proof.Machine
end

section
/-! The decoder by its opcode field (30_encoding.md R109): every opcode is a mnemonic's or an unassigned row's, and in both
cases it alone says which row the decoded instruction is of. -/

namespace Sys2Proof

/-- Between them the mnemonics and the unassigned rows name every value of the opcode field. -/
theorem opcode_mnemonic_or_unassigned (op : BitVec 6) :
    (∃ m ∈ Mnemonic.all, op = defaultOpcode m) ∨
      ∃ u ∈ Instr.unassigned, u.mnemonic = none ∧ op.toNat = unassignedNumber u := by
  revert op
  decide

section
variable (w : Word)

@[simp] theorem mnemonic_operandsOf (m : Mnemonic) : (operandsOf m w).mnemonic = some m := by cases m <;> rfl

/-- The opcode table's decoder, by unassigned row: the companion of `decode_of_opcode`. -/
theorem decode_of_unassignedNumber (u : Instr) (hu : u.mnemonic = none) (h : (decLS w).op.toNat = unassignedNumber u) :
    decode w = u := by
  unfold decode
  rw [h]
  cases u <;> cases hu <;> rfl

/-- What a word decodes to, and which opcode says so. -/
theorem decode_cases :
    (∃ m, (decLS w).op = defaultOpcode m ∧ decode w = operandsOf m w) ∨
      ∃ u : Instr, u.mnemonic = none ∧ (decLS w).op.toNat = unassignedNumber u ∧ decode w = u := by
  obtain ⟨m, -, h⟩ | ⟨u, -, hu, h⟩ := opcode_mnemonic_or_unassigned (decLS w).op
  · exact .inl ⟨m, h, decode_of_opcode w m h⟩
  · exact .inr ⟨u, hu, h, decode_of_unassignedNumber w u hu h⟩

theorem opcodeOf_decode : opcodeOf (decode w) = (decLS w).op.toNat := by
  obtain ⟨m, h, hd⟩ | ⟨u, hu, h, hd⟩ := decode_cases w
  · rw [hd, h, opcodeOf, opcodeUnder, mnemonic_operandsOf]
  · rw [hd, h, opcodeOf, opcodeUnder, hu]

variable {w} {w' : Word} (hop : (decLS w).op = (decLS w').op)
include hop

theorem mnemonic_decode_of_op_eq : (decode w).mnemonic = (decode w').mnemonic := by
  obtain ⟨m, h, hd⟩ | ⟨u, hu, h, hd⟩ := decode_cases w
  · rw [hd, decode_of_opcode w' m (hop ▸ h), mnemonic_operandsOf, mnemonic_operandsOf]
  · rw [hd, decode_of_unassignedNumber w' u hu (hop ▸ h)]

theorem decode_eq_of_op_eq (hn : (decode w).mnemonic = none) : decode w = decode w' := by
  obtain ⟨m, h, hd⟩ | ⟨u, hu, h, hd⟩ := decode_cases w
  · rw [hd, mnemonic_operandsOf] at hn
    cases hn
  · rw [hd, decode_of_unassignedNumber w' u hu (hop ▸ h)]

end

theorem op_eq_of_div_eq {w w' : Word} (h : w.toNat / 1024 = w'.toNat / 1024) : (decLS w).op = (decLS w').op :=
  BitVec.eq_of_toNat_eq (by rw [opField_toNat, opField_toNat, h])

/-- Settles O6: the row of the decoded instruction is the one the opcode field names, with a mnemonic or without. -/
theorem opcodeFieldAloneSelectsTheInstruction : Obligations.OpcodeFieldAloneSelectsTheInstruction := by
  unfold Obligations.OpcodeFieldAloneSelectsTheInstruction
  refine ⟨fun w => ?_, fun w w' h => ?_, fun w w' h hn => ?_⟩
  · rw [opcodeOf_decode, opField_toNat]
  · exact mnemonic_decode_of_op_eq (op_eq_of_div_eq h)
  · exact decode_eq_of_op_eq (op_eq_of_div_eq h) hn

end Sys2Proof
end

section
/-! The opcodes the CPU does not execute (42_halt_and_unsupported.md R201): which words hold one, the execute phase of the
RR mnemonics among them, and the step that fetches one. -/

namespace Sys2Proof.Machine

/-! ### The RR mnemonics -/

/-- Settles O34: each is outside the executed subset, so `exec_illegal` gives its execute phase. -/
theorem rrMnemonicsOutsideTheSubsetHalt : Obligations.RrMnemonicsOutsideTheSubsetHalt := by
  unfold Obligations.RrMnemonicsOutsideTheSubsetHalt
  intro n rx ry s
  refine ⟨rfl, fun p hp => ?_, fun i hi => ?_⟩
  · fin_cases hp <;> rfl
  · have hill : illegalInstr i = true := by fin_cases hi <;> rfl
    exact exec_illegal i s hill

/-! ### The step -/

/-- The executed subset by its opcode numbers (30_encoding.md R111). -/
theorem illegalInstr_of_opcodeOf (i : Instr) (h : opcodeOf i ∉ [0, 1, 2, 3, 33, 34]) : illegalInstr i = true := by
  cases i with
  | hlt | ldr | str | lda | ldx | stx => simp [opcodeOf, opcodeUnder, Instr.mnemonic, defaultOpcode] at h
  | _ => rfl

theorem illegalInstr_decode (w : Word) (h : w.toNat / 1024 ∉ [0, 1, 2, 3, 33, 34]) : illegalInstr (decode w) = true :=
  illegalInstr_of_opcodeOf _ (by rwa [opcodeOf_decode, opField_toNat])

/-- The outcome of a step of a RUNNING machine is read off the state that the step answers with the mark clear. -/
theorem stepOutcome_of_step {s t : State} (h : s.halted = false) (hs : step { s with memFault := none } = .next t) :
    stepOutcome s = outcomeOf t := by
  rw [stepOutcome, if_neg (by simp [h]), hs]

section
variable (s : State) (h : s.halted = false) (hp : s.pc.toNat < Config.memWords)
  (hi : illegalInstr (decode (s.memory.word s.pc.toNat)) = true)
include h hp hi

theorem step_of_illegal : step s = .next (raiseIllegalOpcode s.afterFetch) := by
  rw [step_of_fetch s h hp, exec_illegal _ _ hi]

theorem stepOutcome_of_illegal : stepOutcome s = .haltedBy .illegalOpcode := by
  have hs := step_of_illegal { s with memFault := none } h hp hi
  rw [stepOutcome_of_step h hs, outcomeOf_halted _ rfl rfl, raiseIllegalOpcode_ir, afterFetch_ir, haltCause_illegal _ hi]

end

/-- Settles O37: the opcode field alone makes the fetched word an illegal instruction. -/
theorem opcodeOutsideTheSubsetHaltsTheStep : Obligations.OpcodeOutsideTheSubsetHaltsTheStep := by
  unfold Obligations.OpcodeOutsideTheSubsetHaltsTheStep
  rintro s w h hp rfl hop
  have hi := illegalInstr_decode _ hop
  exact ⟨step_of_illegal s h hp hi, stepOutcome_of_illegal s h hp hi⟩

end Sys2Proof.Machine
end

section
/-! The codec there and back (30_encoding.md R105 to R122): every instruction comes back from its word under the opcode
table and under every admissible numbering, the layouts round-trip on what fits their fields, and the operand contracts. -/

namespace Sys2Proof

/-! ### Instructions -/

theorem Instr.exists_mnemonic_of_wellFormed (i : Instr) (h : i.wellFormed = true) : ∃ m, i.mnemonic = some m := by
  rw [← Option.isSome_iff_exists]
  revert h
  cases i <;> simp [Instr.wellFormed, Instr.mnemonic]

/-- The two readings of the opcode number of an instruction with a mnemonic, and of a row without one. -/
theorem opcodeUnder_of_mnemonic (n : OpcodeNumbers) {i : Instr} {m : Mnemonic} (h : i.mnemonic = some m) :
    opcodeUnder n i = (n m).toNat := by
  rw [opcodeUnder, h]

theorem opcodeUnder_of_no_mnemonic (n : OpcodeNumbers) {i : Instr} (h : i.mnemonic = none) :
    opcodeUnder n i = unassignedNumber i := by
  rw [opcodeUnder, h]

theorem unassignedNumber_lt (i : Instr) : unassignedNumber i < 64 := by
  cases i <;> simp [unassignedNumber]

theorem opField_encodeUnder (n : OpcodeNumbers) {i : Instr} {m : Mnemonic} (h : i.mnemonic = some m) :
    (decLS (encodeUnder n i)).op = n m := by
  rw [encodeUnder, opField_encodeFields, opcodeUnder_of_mnemonic n h, BitVec.ofNat_toNat, BitVec.setWidth_eq]

/-- The decoder reads back every instruction, well formed or not: the row comes from the opcode field, and then the operands
from theirs. -/
theorem decode_encode (i : Instr) : decode (encode i) = i := by
  cases h : i.mnemonic with
  | some m =>
    have hop : (decLS (encode i)).op = defaultOpcode m := opField_encodeUnder defaultOpcode h
    rw [decode_of_opcode _ m hop, encode, operandsOf_encodeFields _ _ _ h]
  | none =>
    apply decode_of_unassignedNumber _ i h
    rw [encode, opField_encodeFields, opcodeOf, opcodeUnder_of_no_mnemonic _ h, BitVec.toNat_ofNat]
    exact Nat.mod_eq_of_lt (unassignedNumber_lt i)

/-- Settles O3: `decode_encode` needs no premise. -/
theorem decodeReadsBackEncode : Obligations.DecodeReadsBackEncode := by
  unfold Obligations.DecodeReadsBackEncode
  exact fun i _ => decode_encode i

/-- A numbering that gives no two mnemonics the same number finds the mnemonic of a number again. -/
theorem mnemonicUnder_of_admissible {n : OpcodeNumbers} (hn : n.Admissible) (m : Mnemonic) :
    mnemonicUnder n (n m) = some m := by
  unfold mnemonicUnder
  cases h : Mnemonic.all.find? fun m' => n m' == n m with
  | none => simpa using List.find?_eq_none.1 h m m.mem_all
  | some m' =>
    have hm : n m' = n m := by simpa using List.find?_some h
    rw [hn.2 m' m hm]

/-- Settles O4: the numbering finds the mnemonic again, and the operand fields do not depend on its number. -/
theorem decodeReadsBackEncodeUnderEveryNumbering : Obligations.DecodeReadsBackEncodeUnderEveryNumbering := by
  unfold Obligations.DecodeReadsBackEncodeUnderEveryNumbering
  intro n hn i hi
  obtain ⟨m, hm⟩ := i.exists_mnemonic_of_wellFormed hi
  rw [decodeUnder, opField_encodeUnder n hm, mnemonicUnder_of_admissible hn, Option.map_some, encodeUnder,
    operandsOf_encodeFields _ _ _ hm]

/-! ### Words -/

section
variable (w : Word)

theorem encode_decLS : (decLS w).encode = w := by
  apply BitVec.eq_of_toNat_eq
  simp only [LsFields.encode, encLS_toNat, decLS, field_toNat]
  omega

theorem unusedRR_eq_zero_iff : unusedRR w = 0 ↔ w.toNat % 64 = 0 := by
  rw [← BitVec.toNat_inj, unusedRR_toNat]
  rfl

theorem unusedSH_eq_zero_iff : unusedSH w = 0 ↔ w.toNat % 4 = 0 := by
  rw [← BitVec.toNat_inj, unusedSH_toNat]
  rfl

theorem unusedIO_eq_zero_iff : unusedIO w = 0 ↔ w.toNat / 32 % 8 = 0 := by
  rw [← BitVec.toNat_inj, unusedIO_toNat]
  rfl

theorem encode_decRR_iff : (decRR w).encode = w ↔ unusedRR w = 0 := by
  rw [← BitVec.toNat_inj, unusedRR_eq_zero_iff]
  simp only [RrFields.encode, encRR_toNat, decRR, field_toNat]
  omega

theorem encode_decSH_iff : (decSH w).encode = w ↔ unusedSH w = 0 := by
  rw [← BitVec.toNat_inj, unusedSH_eq_zero_iff]
  simp only [ShFields.encode, encSH_toNat, decSH, field_toNat]
  omega

theorem encode_decIO_iff : (decIO w).encode = w ↔ unusedIO w = 0 := by
  rw [← BitVec.toNat_inj, unusedIO_eq_zero_iff]
  simp only [IoFields.encode, encIO_toNat, decIO, field_toNat]
  omega

end

/-- Settles O1: a decoder gives each argument modulo its field's size, which is the argument exactly when it fits. -/
theorem codecRoundTripInAllFourLayouts : Obligations.CodecRoundTripInAllFourLayouts := by
  unfold Obligations.CodecRoundTripInAllFourLayouts
  refine ⟨fun op r ix i addr => ?_, fun op rx ry => ?_, fun op r al lr count => ?_, fun op r devid => ?_,
    encode_decLS, encode_decRR_iff, encode_decSH_iff, encode_decIO_iff⟩
  · simp only [decLS_encLS, BitVec.toNat_ofNat]
    omega
  · simp only [decRR_encRR, BitVec.toNat_ofNat]
    omega
  · simp only [decSH_encSH, BitVec.toNat_ofNat]
    omega
  · simp only [decIO_encIO, BitVec.toNat_ofNat]
    omega

/-- A field that is 0 has no bit set. -/
theorem getLsbD_of_field_eq_zero {w : Word} {lo n i : Nat} (h : field w lo n = 0) (h0 : lo ≤ i) (h1 : i < lo + n) :
    w.getLsbD i = false := by
  have hb : (field w lo n).getLsbD (i - lo) = false := by simp [h]
  rwa [field, BitVec.getLsbD_extractLsb', decide_eq_true (by omega), Bool.true_and, Nat.add_sub_cancel' h0] at hb

section
variable (op r rx ry al lr count devid : Nat)

theorem unusedRR_encRR : unusedRR (encRR op rx ry) = 0 := by
  rw [unusedRR_eq_zero_iff, encRR_toNat]
  omega

theorem unusedSH_encSH : unusedSH (encSH op r al lr count) = 0 := by
  rw [unusedSH_eq_zero_iff, encSH_toNat]
  omega

theorem unusedIO_encIO : unusedIO (encIO op r devid) = 0 := by
  rw [unusedIO_eq_zero_iff, encIO_toNat]
  omega

end

/-- Settles O2: the sums are the encoders in arithmetic, and the unused bits of an encoded word are a field that is 0. -/
theorem encodersMaskAndPackTheirFields : Obligations.EncodersMaskAndPackTheirFields := by
  unfold Obligations.EncodersMaskAndPackTheirFields
  refine ⟨encLS_toNat, encRR_toNat, encSH_toNat, encIO_toNat, fun op rx ry i hi => ?_, fun op r al lr count i hi => ?_,
    fun op r devid i h0 h1 => ?_⟩
  · exact getLsbD_of_field_eq_zero (unusedRR_encRR op rx ry) (Nat.zero_le i) (by omega)
  · exact getLsbD_of_field_eq_zero (unusedSH_encSH op r al lr count) (Nat.zero_le i) (by omega)
  · exact getLsbD_of_field_eq_zero (unusedIO_encIO op r devid) h0 h1

/-! ### The canonical word of a decoded word -/

section
variable (w : Word) (m : Mnemonic) (hop : (decLS w).op = defaultOpcode m)
include hop

theorem opcodeOf_operandsOf : opcodeOf (operandsOf m w) = (decLS w).op.toNat := by
  rw [opcodeOf, opcodeUnder_of_mnemonic _ (mnemonic_operandsOf w m), hop]

/-- The mnemonics that use every field of the LS layout. -/
theorem encode_operandsOf_ls (hm : m ∈ [.ldr, .str, .lda, .amr, .smr, .jz, .jne, .jcc, .sob, .jge]) :
    encode (operandsOf m w) = w := by
  rw [encode, opcodeOf_operandsOf w m hop]
  conv_rhs => rw [← encode_decLS w, LsFields.encode]
  fin_cases hm <;>
    simp only [operandsOf, encodeFields, gprNumber_gprOfField, ixNumber_ixOfField, indirectNumber_indirectOfField]

/-- LDX and STX use every field but R. -/
theorem encode_operandsOf_indexed (hm : m ∈ [.ldx, .stx]) :
    (encode (operandsOf m w)).toNat = w.toNat / 1024 * 1024 + w.toNat % 256 := by
  have hw : encode (operandsOf m w)
      = encLS (decLS w).op.toNat 0 (decLS w).ix.toNat (decLS w).i.toNat (decLS w).addr.toNat := by
    rw [encode, opcodeOf_operandsOf w m hop]
    fin_cases hm <;> simp only [operandsOf, encodeFields, ixNumber_ixOfField, indirectNumber_indirectOfField]
  have := w.isLt
  simp only [hw, encLS_toNat, decLS, field_toNat]
  omega

end

/-- The mnemonic of an opcode number, found by looking through a list of mnemonics. -/
theorem exists_mnemonic_of_opcode (w : Word) (ms : List Mnemonic)
    (h : w.toNat / 1024 ∈ ms.map fun m => (defaultOpcode m).toNat) :
    ∃ m ∈ ms, (decLS w).op = defaultOpcode m ∧ decode w = operandsOf m w := by
  obtain ⟨m, hm, hop⟩ := List.mem_map.1 h
  have hop' : (decLS w).op = defaultOpcode m := BitVec.eq_of_toNat_eq (by rw [opField_toNat, hop])
  exact ⟨m, hm, hop', decode_of_opcode w m hop'⟩

/-- Settles O5: `decode_encode`, and the fields that the mnemonics of the listed opcodes use. -/
theorem canonicalWordMeansTheSame : Obligations.CanonicalWordMeansTheSame := by
  unfold Obligations.CanonicalWordMeansTheSame
  refine ⟨fun w => decode_encode (decode w), fun w h => ?_, fun w h => ?_⟩
  · obtain ⟨m, hm, hop, hd⟩ :=
      exists_mnemonic_of_opcode w [.ldr, .str, .lda, .amr, .smr, .jz, .jne, .jcc, .sob, .jge] h
    rw [hd, encode_operandsOf_ls w m hop hm]
  · obtain ⟨m, hm, hop, hd⟩ := exists_mnemonic_of_opcode w [.ldx, .stx] h
    rw [hd, encode_operandsOf_indexed w m hop hm]

/-! ### The operand fields -/

section
variable (w : Word)

theorem rField_toNat : (decLS w).r.toNat = w.toNat / 256 % 4 := field_toNat w 8 2

theorem ixField_toNat : (decLS w).ix.toNat = w.toNat / 64 % 4 := field_toNat w 6 2

theorem iField_toNat : (decLS w).i.toNat = w.toNat / 32 % 2 := field_toNat w 5 1

theorem addrField_toNat : (decLS w).addr.toNat = w.toNat % 32 := by
  simp [decLS, field_toNat]

end

theorem gprOfField_eq {b : BitVec 2} {r : Gpr} (h : gprNumber r = b.toNat) : gprOfField b = r := by
  simpa [h] using gprOfField_gprNumber r

theorem ixOfField_eq {b : BitVec 2} {ix : Option Ixr} (h : ixNumber ix = b.toNat) : ixOfField b = ix := by
  simpa [h] using ixOfField_ixNumber ix

theorem indirectOfField_eq {b : BitVec 1} {ind : Bool} (h : indirectNumber ind = b.toNat) : indirectOfField b = ind := by
  simpa [h] using indirectOfField_indirectNumber ind

theorem decode_of_opcode_toNat (w : Word) (m : Mnemonic) (h : w.toNat / 1024 = (defaultOpcode m).toNat) :
    decode w = operandsOf m w :=
  decode_of_opcode w m (BitVec.eq_of_toNat_eq (by rw [opField_toNat, h]))

/-- Settles O7: the fields in arithmetic, and the operands that `operandsOf` makes of them. -/
theorem decodeTakesOperandsFromLsFields : Obligations.DecodeTakesOperandsFromLsFields := by
  unfold Obligations.DecodeTakesOperandsFromLsFields
  refine ⟨fun w => ⟨opField_toNat w, rField_toNat w, ixField_toNat w, iField_toNat w, addrField_toNat w⟩,
    fun w r ix ind addr hr hix hind haddr => ?_⟩
  obtain rfl : gprOfField (decLS w).r = r := gprOfField_eq (hr.trans (rField_toNat w).symm)
  obtain rfl : ixOfField (decLS w).ix = ix := ixOfField_eq (hix.trans (ixField_toNat w).symm)
  obtain rfl : indirectOfField (decLS w).i = ind := indirectOfField_eq (hind.trans (iField_toNat w).symm)
  obtain rfl : (decLS w).addr = addr := BitVec.eq_of_toNat_eq ((addrField_toNat w).trans haddr.symm)
  exact ⟨decode_of_opcode_toNat w .hlt, decode_of_opcode_toNat w .ldr, decode_of_opcode_toNat w .str,
    decode_of_opcode_toNat w .lda, decode_of_opcode_toNat w .ldx, decode_of_opcode_toNat w .stx⟩

/-- Settles O8: each word is decoded by computation. -/
theorem tableWordsDecode : Obligations.TableWordsDecode := by
  unfold Obligations.TableWordsDecode
  decide

/-! ### The operand contracts -/

theorem indexedAddress_none_toNat (addr : BitVec 5) (s : Machine.State) :
    (Machine.indexedAddress none addr s).toNat = addr.toNat := by
  have := addr.isLt
  rw [Machine.indexedAddress, BitVec.toNat_ofNat]
  omega

/-- Settles O9: each contract is the encoder's own equation. -/
theorem encoderFollowsTheOperandContracts : Obligations.EncoderFollowsTheOperandContracts := by
  unfold Obligations.EncoderFollowsTheOperandContracts
  intro n
  refine ⟨fun r ix ind addr p hp => ?_, ⟨rfl, indexedAddress_none_toNat⟩, fun imm => rfl, fun rx ry p hp => ?_,
    fun r count lr al p hp => ?_, fun r devid p hp => ?_⟩ <;> fin_cases hp <;> rfl

/-- Every field below the opcode of the word of TRAP is 0. -/
theorem field_encode_trap (lo n : Nat) (h : lo + n ≤ 10) : field (encode .trap) lo n = 0 := by
  have hbits : ∀ i < 10, (encode .trap).getLsbD i = false := by decide
  ext i hi
  simp [field, hbits (lo + i) (by omega)]

/-- Settles O10: the equations of the encoder, and no admissible layout reaches into the opcode of TRAP. -/
theorem encoderPlacesTheRemainingOperands : Obligations.EncoderPlacesTheRemainingOperands := by
  unfold Obligations.EncoderPlacesTheRemainingOperands
  intro n
  refine ⟨fun ix ind addr => ⟨rfl, rfl⟩, fun cc ix ind addr => rfl, fun r imm => ⟨rfl, rfl⟩, fun rx => rfl, rfl, rfl,
    fun l hl => ?_⟩
  refine List.map_congr_left fun f hf => ?_
  rw [field_encode_trap f.lo f.width (hl.1 f hf)]
  rfl

end Sys2Proof
end

section
/-! The Memory's latches and its contents (10_state.md, 20_memory.md): the latches one equation per case, the raw requests of
the host, and loading an image by pokes. -/

namespace Sys2Proof.Machine

/-! ### The latches -/

section
variable (m : Memory) (a : Nat)

theorem latchRead_of_lt (h : a < Config.memWords) : m.latchRead a = .ok ⟨m.cells, .read, BitVec.ofNat 11 a⟩ := if_pos h

theorem latchRead_of_ge (h : ¬ a < Config.memWords) : m.latchRead a = .error (.range a) := if_neg h

theorem latchWrite_of_lt (h : a < Config.memWords) : m.latchWrite a = .ok ⟨m.cells, .write, BitVec.ofNat 11 a⟩ := if_pos h

theorem latchWrite_of_ge (h : ¬ a < Config.memWords) : m.latchWrite a = .error (.range a) := if_neg h

end

/-- Settles O11: the equations of the two latches. -/
theorem latchRecordsAddressAndKind : Obligations.LatchRecordsAddressAndKind := by
  unfold Obligations.LatchRecordsAddressAndKind
  refine ⟨fun m a ha => ⟨?_, ?_⟩, fun m a ha => ?_⟩
  · exact ⟨_, latchRead_of_lt m a ha, latched_toNat a ha, rfl, fun k => word_session m k _ _⟩
  · exact ⟨_, latchWrite_of_lt m a ha, latched_toNat a ha, rfl, fun k => word_session m k _ _⟩
  · have ha' : ¬ a < Config.memWords := Nat.not_lt.2 ha
    exact ⟨latchRead_of_ge m a ha', latchWrite_of_ge m a ha'⟩

section
variable (s : State)

theorem hostOp_latch_out (a : Int) (h : a < 0 ∨ (Config.memWords : Int) ≤ a) :
    hostOp (.latchRead a) s = (.memFault (.range a), s) ∧ hostOp (.latchWrite a) s = (.memFault (.range a), s) := by
  cases a with
  | ofNat k =>
    have hk : ¬ k < Config.memWords := by
      rw [Int.ofNat_eq_natCast] at h
      omega
    simp only [hostOp, latchRead_of_ge s.memory k hk, latchWrite_of_ge s.memory k hk, memoryReply, Int.ofNat_eq_natCast,
      and_self]
  | negSucc k => exact ⟨rfl, rfl⟩

theorem hostOp_latchRead_of_lt (a : Nat) (h : a < Config.memWords) :
    hostOp (.latchRead a) s = (.ok, { s with memory := ⟨s.memory.cells, .read, BitVec.ofNat 11 a⟩ }) := by
  simp only [hostOp, latchRead_of_lt s.memory a h, memoryReply]

theorem hostOp_latchWrite_of_lt (a : Nat) (h : a < Config.memWords) :
    hostOp (.latchWrite a) s = (.ok, { s with memory := ⟨s.memory.cells, .write, BitVec.ofNat 11 a⟩ }) := by
  simp only [hostOp, latchWrite_of_lt s.memory a h, memoryReply]

theorem hostOp_transferWrite_of_write (v : Word) (h : s.memory.pending = .write) :
    hostOp (.transferWrite v) s =
      (.ok, { s with memory := { s.memory.setWord s.memory.latchedAddr.toNat v with pending := .none } }) := by
  simp only [hostOp, transferWrite_of_write s.memory v h, memoryReply]

end

/-- Settles O12: an integer out of range is a natural number that the latch refuses, or negative. -/
theorem latchOutOfRangeChangesNothing : Obligations.LatchOutOfRangeChangesNothing := by
  unfold Obligations.LatchOutOfRangeChangesNothing
  exact fun a s ha => hostOp_latch_out s a ha

/-- Settles O14: the equation of each mismatched transfer. -/
theorem mismatchedTransferIsAProtocolFault : Obligations.MismatchedTransferIsAProtocolFault := by
  unfold Obligations.MismatchedTransferIsAProtocolFault
  refine fun s => ⟨fun h => ?_, fun h v => ?_⟩
  · simp only [hostOp, transferRead_of_ne_read s.memory h]
  · simp only [hostOp, transferWrite_of_ne_write s.memory v h, memoryReply]

/-- Settles O60: the equation of each operation that succeeds, and read after write at the latched address. -/
theorem rawMemoryRequestsChangeTheMemoryOnly : Obligations.RawMemoryRequestsChangeTheMemoryOnly := by
  unfold Obligations.RawMemoryRequestsChangeTheMemoryOnly
  intro s hwf
  refine ⟨fun a ha => ⟨hostOp_latchRead_of_lt s a ha, hostOp_latchWrite_of_lt s a ha⟩, fun hread => ?_, fun hwrite v => ?_⟩
  · simp only [hostOp, transferRead_of_read s.memory hread]
  · exact ⟨_, hostOp_transferWrite_of_write s v hwrite, word_setWord_same s.memory _ v hwf,
      fun k hk => word_setWord_ne s.memory _ k v hk, rfl, rfl⟩

/-! ### The contents -/

/-- No address of the canonical form lies outside the memory. -/
theorem readCells_of_ge {lo k : Nat} (c : List (Nat × Word)) (h : cellsWf lo c = true) (hk : ¬ k < Config.memWords) :
    readCells c k = 0 := by
  induction c generalizing lo with
  | nil => rfl
  | cons p rest ih =>
    obtain ⟨a, w⟩ := p
    obtain ⟨-, ha, -, hrest⟩ := (cellsWf_cons lo a w rest).1 h
    rw [readCells, if_neg (by omega), ih hrest]

/-- Settles O17: the canonical form is determined by the words, and outside the memory every word is 0. -/
theorem canonicalMemoriesWithEqualWordsAreEqual : Obligations.CanonicalMemoriesWithEqualWordsAreEqual := by
  unfold Obligations.CanonicalMemoriesWithEqualWordsAreEqual
  rintro ⟨c, p, l⟩ ⟨c', p', l'⟩ hwf hwf' rfl rfl hwords
  have hc : c = c' := by
    refine cells_ext c c' hwf hwf' fun k => ?_
    by_cases hk : k < Config.memWords
    · exact hwords k hk
    · rw [readCells_of_ge c hwf hk, readCells_of_ge c' hwf' hk]
  rw [hc]

/-! ### Loading an image (70_reset_and_hazards.md R294) -/

/-- The Memory with the words of an image stored one after another. -/
def Memory.load (m : Memory) (image : List (Nat × Word)) : Memory :=
  image.foldl (fun m c => m.setWord c.1 c.2) m

section
variable (m : Memory) (c : Nat × Word) (image earlier later : List (Nat × Word))

@[simp] theorem load_cons : m.load (c :: image) = (m.setWord c.1 c.2).load image := rfl

theorem load_append : m.load (earlier ++ later) = (m.load earlier).load later := List.foldl_append

@[simp] theorem load_pending : (m.load image).pending = m.pending := by
  induction image generalizing m with
  | nil => rfl
  | cons c image ih => rw [load_cons, ih, setWord_pending]

@[simp] theorem load_latchedAddr : (m.load image).latchedAddr = m.latchedAddr := by
  induction image generalizing m with
  | nil => rfl
  | cons c image ih => rw [load_cons, ih, setWord_latchedAddr]

theorem word_load_of_notMem (k : Nat) (h : k ∉ image.map (·.1)) : (m.load image).word k = m.word k := by
  induction image generalizing m with
  | nil => rfl
  | cons c image ih =>
    rw [List.map_cons, List.mem_cons, not_or] at h
    rw [load_cons, ih _ h.2, word_setWord_ne m c.1 k c.2 h.1]

variable {m image}

theorem wf_load (hm : m.wf = true) (h : ∀ c ∈ image, c.1 < Config.memWords) : (m.load image).wf = true := by
  induction image generalizing m with
  | nil => exact hm
  | cons c image ih =>
    rw [List.forall_mem_cons] at h
    exact ih (wf_setWord m c.1 c.2 hm h.1) h.2

/-- The last word stored at an address stays there. -/
theorem word_load_last (hm : m.wf = true) (h : ∀ c ∈ image, c.1 < Config.memWords) (himage : image = earlier ++ c :: later)
    (hlast : c.1 ∉ later.map (·.1)) : (m.load image).word c.1 = c.2 := by
  subst himage
  have hearlier : (m.load earlier).wf = true := wf_load hm fun c hc => h c (List.mem_append_left _ hc)
  rw [load_append, load_cons, word_load_of_notMem _ _ _ hlast, word_setWord_same _ _ _ hearlier]

/-- Poking the words of an image is loading it. -/
theorem hostOps_pokes (s : State) (h : ∀ c ∈ image, c.1 < Config.memWords) :
    hostOps (image.map fun c => .poke (c.1 : Int) (c.2.toNat : Int)) s = { s with memory := s.memory.load image } := by
  induction image generalizing s with
  | nil => rfl
  | cons c image ih =>
    rw [List.forall_mem_cons] at h
    rw [List.map_cons, hostOps, hostOp_poke_of_lt s c.1 c.2 h.1, ih _ h.2, load_cons]

end

/-- Settles O18: the pokes load the image, and each fact about the loaded memory is an induction over the image. -/
theorem pokingLoadsTheWords : Obligations.PokingLoadsTheWords := by
  unfold Obligations.PokingLoadsTheWords
  intro image s hwf himage
  exact ⟨s.memory.load image, hostOps_pokes s himage,
    fun earlier c later hsplit hlast => word_load_last c earlier later hwf himage hsplit hlast,
    fun k hk => word_load_of_notMem s.memory image k hk, wf_load hwf himage, load_pending _ _, load_latchedAddr _ _⟩

end Sys2Proof.Machine
end

section
/-! The CPU's accesses, the fetch and the step (40_cpu_cycle.md): what was pending plays no part in an access, and the
statements about the cycle, put together from the equations of `Laws/Cpu.lean`. -/

namespace Sys2Proof.Machine

/-! ### Addresses -/

section
variable (addr : BitVec 5) (x : Ixr) (s : State) (v w : Word)

theorem indexedAddress_some_toNat : (indexedAddress (some x) addr s).toNat = (addr.toNat + (s.ixr x).toNat) % 4096 :=
  BitVec.toNat_ofNat _ 12

theorem indexedAddress_none_lt_32 : (indexedAddress none addr s).toNat < 32 := by
  rw [indexedAddress_none_toNat]
  exact addr.isLt

/-- The upper bits of an index register play no part. -/
theorem indexedAddress_setIxr (h : v.toNat % 4096 = (s.ixr x).toNat % 4096) :
    indexedAddress (some x) addr (s.setIxr x v) = indexedAddress (some x) addr s := by
  apply BitVec.eq_of_toNat_eq
  rw [indexedAddress_some_toNat, indexedAddress_some_toNat, ixr_setIxr_same]
  omega

theorem pointerAddress_eq_mod : pointerAddress w = BitVec.ofNat 12 (w.toNat % 4096) := by
  apply BitVec.eq_of_toNat_eq
  simp [pointerAddress]

end

/-- Settles O23: the equations of the indexed address, and of the one read behind it. -/
theorem effectiveAddressIndexesThenIndirects : Obligations.EffectiveAddressIndexesThenIndirects := by
  unfold Obligations.EffectiveAddressIndexesThenIndirects
  refine ⟨indexedAddress_none_toNat, fun x addr s => indexedAddress_some_toNat addr x s,
    fun x addr s v => indexedAddress_setIxr addr x s v, fun ix addr s => rfl, fun ix addr s => ?_, fun ind addr s => rfl,
    fun addr s => ⟨_, rfl, indexedAddress_none_toNat addr s, indexedAddress_none_lt_32 addr s⟩⟩
  rw [eaIndexed, indirect, if_pos rfl]
  cases memRead (indexedAddress ix addr s) s with
  | ok w t => simp only [Access.bind, pointerAddress_eq_mod]
  | memFault f t => rfl

/-! ### One word through MAR and MBR -/

/-- Settles O16: neither the word nor the state after an access looks at the session state. -/
theorem cpuAccessReplacesAPendingLatch : Obligations.CpuAccessReplacesAPendingLatch := by
  unfold Obligations.CpuAccessReplacesAPendingLatch
  intro s p l a v ha
  let s' := { s with memory := ⟨s.memory.cells, p, l⟩ }
  exact ⟨(memRead_of_lt a s' ha).trans (memRead_of_lt a s ha).symm,
    (memWrite_of_lt a v s' ha).trans (memWrite_of_lt a v s ha).symm,
    fun hp => (fetch_of_lt s' hp).trans (fetch_of_lt s hp).symm⟩

section
variable (a : Addr) (v : Word) (s : State)

theorem afterRead_frame :
    sameWords s (s.afterRead a) ∧ sameGprs s (s.afterRead a) ∧ sameIxrs s (s.afterRead a) ∧ sameControl s (s.afterRead a) := by
  simp [sameWords, sameGprs, sameIxrs, sameControl]

theorem afterWrite_frame :
    sameGprs s (s.afterWrite a v) ∧ sameIxrs s (s.afterWrite a v) ∧ sameControl s (s.afterWrite a v) := by
  simp [sameGprs, sameIxrs, sameControl]

theorem word_afterWrite_same (h : s.memory.wf = true) : (s.afterWrite a v).memory.word a.toNat = v :=
  word_setWord_same s.memory a.toNat v h

theorem word_afterWrite_ne (k : Nat) (h : k ≠ a.toNat) : (s.afterWrite a v).memory.word k = s.memory.word k :=
  word_setWord_ne s.memory a.toNat k v h

end

/-- Settles O24: the equations of a read and a write, and the frame of the state after each. -/
theorem cpuAccessGoesThroughMarAndMbr : Obligations.CpuAccessGoesThroughMarAndMbr := by
  unfold Obligations.CpuAccessGoesThroughMarAndMbr
  refine fun a v s hwf => ⟨fun ha => ⟨?_, ?_⟩, fun ha => ?_⟩
  · obtain ⟨hwords, hgprs, hixrs, hcontrol⟩ := afterRead_frame a s
    exact ⟨_, memRead_of_lt a s ha, rfl, rfl, rfl, hwords, hgprs, hixrs, hcontrol, rfl⟩
  · obtain ⟨hgprs, hixrs, hcontrol⟩ := afterWrite_frame a v s
    exact ⟨_, memWrite_of_lt a v s ha, rfl, rfl, rfl, word_afterWrite_same a v s hwf, word_afterWrite_ne a v s, hgprs,
      hixrs, hcontrol, rfl⟩
  · exact ⟨memRead_of_ge a s (Nat.not_lt.2 ha), memWrite_of_ge a v s (Nat.not_lt.2 ha)⟩

/-! ### The fetch and the step -/

theorem addr_succ_toNat (p : Addr) : (p + 1).toNat = (p.toNat + 1) % 4096 := BitVec.toNat_add p 1

theorem addr_succ_eq (p : Addr) : p + 1 = BitVec.ofNat 12 ((p.toNat + 1) % 4096) := by
  apply BitVec.eq_of_toNat_eq
  rw [addr_succ_toNat, BitVec.toNat_ofNat, Nat.mod_mod]

/-- Settles O19: `afterFetch` and the refused fetch, with PC + 1 in arithmetic. -/
theorem fetchSequence : Obligations.FetchSequence := by
  unfold Obligations.FetchSequence
  refine fun s => ⟨fun hp => ?_, fun hp => fetch_of_ge s (Nat.not_lt.2 hp)⟩
  rw [fetch_of_lt s hp, ← addr_succ_eq]
  rfl

/-- Settles O20: `step_of_fetch` with the state after the fetch written out. -/
theorem stepRunsTheDecodedInstruction : Obligations.StepRunsTheDecodedInstruction := by
  unfold Obligations.StepRunsTheDecodedInstruction
  rintro s i h hp rfl
  exact step_of_fetch s h hp

theorem stepOutcome_of_halted (s : State) (h : s.halted = true) : stepOutcome s = .alreadyHalted := if_pos h

theorem executeOneStep_of_halted (s : State) (h : s.halted = true) : executeOneStep s = (.alreadyHalted, s) := by
  rw [executeOneStep_of_step (step_of_halted s h), stepOutcome_of_halted s h]

/-- Settles O21: the equations of a halted machine. -/
theorem stepOfAHaltedMachineChangesNothing : Obligations.StepOfAHaltedMachineChangesNothing := by
  unfold Obligations.StepOfAHaltedMachineChangesNothing
  exact fun s h => ⟨step_of_halted s h, executeOneStep_of_halted s h⟩

theorem stepOutcome_of_fetch_fault (s : State) (h : s.halted = false) (hp : ¬ s.pc.toNat < Config.memWords) :
    stepOutcome s = .memFault (.range s.pc.toNat) := by
  rw [stepOutcome_of_step h (step_of_fetch_fault { s with memFault := none } h hp)]
  exact outcomeOf_memFault _ _ rfl

/-- Settles O22: the equations of a refused fetch. -/
theorem stepFromOutsideMemoryFaults : Obligations.StepFromOutsideMemoryFaults := by
  unfold Obligations.StepFromOutsideMemoryFaults
  refine fun s h hp => ⟨?_, stepOutcome_of_fetch_fault s h (Nat.not_lt.2 hp)⟩
  rw [step_of_fetch_fault s h (Nat.not_lt.2 hp), recordMemFault]

/-- Settles O40: every effect of an execute phase is a next state, and so is a refused fetch. -/
theorem stepAlwaysAnswersANextState : Obligations.StepAlwaysAnswersANextState := by
  unfold Obligations.StepAlwaysAnswersANextState
  exact step_next

end Sys2Proof.Machine
end

section
/-! The executed instructions (41_load_store.md): what an access that completes or is refused leaves alone, and from that each
load and store with its frame. -/

namespace Sys2Proof.Machine

/-! ### What an access leaves alone -/

/-- Everything but MAR, MBR, the Memory's session state and the mark holds in `t` what it held in `s`. -/
def sameButAccess (s t : State) : Prop := sameGprs s t ∧ sameIxrs s t ∧ sameWords s t ∧ sameControl s t

section
variable (s u : State) (g0 g1 g2 g3 x1 x2 x3 : Word) (pc mar : Addr) (mbr ir : Word) (cc mfr : Nibble) (halted : Bool)
  (m : Memory) (mark : Option Fault) (r : Gpr) (x : Ixr) (ind : Bool) (e a : Addr) (v : Word)

@[simp] theorem gpr_of_fields :
    State.gpr ⟨s.gpr0, s.gpr1, s.gpr2, s.gpr3, x1, x2, x3, pc, mar, mbr, ir, cc, mfr, halted, m, mark⟩ r = s.gpr r := by
  cases r <;> rfl

@[simp] theorem ixr_of_fields :
    State.ixr ⟨g0, g1, g2, g3, s.ixr1, s.ixr2, s.ixr3, pc, mar, mbr, ir, cc, mfr, halted, m, mark⟩ x = s.ixr x := by
  cases x <;> rfl

theorem sameButAccess_afterAddress : sameButAccess s (s.afterAddress ind e) := by
  simp [sameButAccess, sameGprs, sameIxrs, sameWords, sameControl]

theorem sameButAccess_afterRead : sameButAccess s ((s.afterAddress ind e).afterRead a) := by
  simp [sameButAccess, sameGprs, sameIxrs, sameWords, sameControl]

theorem afterAddress_mbr : (s.afterAddress ind e).mbr = if ind then s.memory.word e.toNat else s.mbr := by
  cases ind <;> rfl

variable {s u}

/-- An access that is refused at any stage, the registers it has written standing. -/
theorem refused_frame {f : Fault}
    (hu : u = recordMemFault f { s.afterAddress ind e with mar := a, mbr := v }) :
    u.memFault = s.memFault.or (some f) ∧ sameButAccess s u := by
  subst hu
  simp [sameButAccess, sameGprs, sameIxrs, sameWords, sameControl]

theorem setGpr_frame (h : sameButAccess s u) :
    (∀ r', r' ≠ r → (u.setGpr r v).gpr r' = s.gpr r') ∧ sameIxrs s (u.setGpr r v) ∧ sameWords s (u.setGpr r v) ∧
      sameControl s (u.setGpr r v) := by
  obtain ⟨hgprs, hixrs, hwords, hcontrol⟩ := h
  refine ⟨fun r' hr' => (gpr_setGpr_ne u r r' v hr').trans (hgprs r'), fun x => ?_, fun k => ?_, ?_⟩
  · rw [ixr_setGpr, hixrs x]
  · rw [setGpr_memory, hwords k]
  · simpa only [sameControl, setGpr_pc, setGpr_ir, setGpr_cc, setGpr_mfr, setGpr_halted] using hcontrol

theorem setIxr_frame (h : sameButAccess s u) :
    (∀ x', x' ≠ x → (u.setIxr x v).ixr x' = s.ixr x') ∧ sameGprs s (u.setIxr x v) ∧ sameWords s (u.setIxr x v) ∧
      sameControl s (u.setIxr x v) := by
  obtain ⟨hgprs, hixrs, hwords, hcontrol⟩ := h
  refine ⟨fun x' hx' => (ixr_setIxr_ne u x x' v hx').trans (hixrs x'), fun r => ?_, fun k => ?_, ?_⟩
  · rw [gpr_setIxr, hgprs r]
  · rw [setIxr_memory, hwords k]
  · simpa only [sameControl, setIxr_pc, setIxr_ir, setIxr_cc, setIxr_mfr, setIxr_halted] using hcontrol

variable (s)

theorem stored_frame :
    sameGprs s ((s.afterAddress ind e).afterWrite a v) ∧ sameIxrs s ((s.afterAddress ind e).afterWrite a v) ∧
      sameControl s ((s.afterAddress ind e).afterWrite a v) := by
  simp [sameGprs, sameIxrs, sameControl]

theorem word_stored_ne (k : Nat) (h : k ≠ a.toNat) :
    ((s.afterAddress ind e).afterWrite a v).memory.word k = s.memory.word k := by
  rw [word_afterWrite_ne a v _ k h, afterAddress_word]

theorem word_stored_same (h : s.memory.wf = true) :
    ((s.afterAddress ind e).afterWrite a v).memory.word a.toNat = v :=
  word_afterWrite_same a v _ (by rwa [afterAddress_wf])

end

/-- An instruction answers one next state. -/
theorem next_unique {i : Instr} {s t u : State} (ht : exec i s = .next t) (hu : exec i s = .next u) : t = u := by
  rw [ht] at hu
  exact Host.Outcome.next.inj hu

/-! ### Loads -/

section
variable (r : Gpr) (ix : Option Ixr) (x : Ixr) (ind : Bool) (addr : BitVec 5) (s : State)

/-- The two refusals of an indexed access, as the instructions that make it end: that of the pointer's address and that of
the effective address. -/
theorem pointer_fault_frame :
    let t := recordMemFault (.range (indexedAddress ix addr s).toNat) { s with mar := indexedAddress ix addr s }
    t.memFault = s.memFault.or (some (.range (indexedAddress ix addr s).toNat)) ∧ sameButAccess s t :=
  refused_frame false 0 _ s.mbr rfl

theorem data_fault_frame :
    let t := recordMemFault (.range (finalAddress ix ind addr s).toNat)
      { s.afterAddress ind (indexedAddress ix addr s) with mar := finalAddress ix ind addr s }
    t.memFault = s.memFault.or (some (.range (finalAddress ix ind addr s).toNat)) ∧ sameButAccess s t :=
  refused_frame ind _ _ _ rfl

theorem store_fault_frame (v : Word) :
    let t := recordMemFault (.range (finalAddress ix ind addr s).toNat)
      { s.afterAddress ind (indexedAddress ix addr s) with mar := finalAddress ix ind addr s, mbr := v }
    t.memFault = s.memFault.or (some (.range (finalAddress ix ind addr s).toNat)) ∧ sameButAccess s t :=
  refused_frame ind _ _ _ rfl

/-- Without an index register nothing is refused before the data access, and without indirection nothing at all. -/
theorem finalAddress_none_false_lt : (finalAddress none false addr s).toNat < Config.memWords :=
  indexedAddress_none_lt addr s

end

/-- Settles O25: the three ends of LDR, each with its frame. -/
theorem ldrLoadsTheWordAtTheEffectiveAddress : Obligations.LdrLoadsTheWordAtTheEffectiveAddress := by
  unfold Obligations.LdrLoadsTheWordAtTheEffectiveAddress
  refine fun r ix ind addr s => ⟨rfl, fun hp he => ?_, fun hi hp => ?_, fun hp he => ?_⟩
  · obtain ⟨hgprs, hixrs, hwords, hcontrol⟩ := setGpr_frame r (s.memory.word (finalAddress ix ind addr s).toNat)
      (sameButAccess_afterRead s ind (indexedAddress ix addr s) (finalAddress ix ind addr s))
    exact ⟨_, execLdr_ok r ix ind addr s hp he, gpr_setGpr_same _ _ _, hgprs, by simp, by simp, hixrs, hwords, hcontrol,
      by simp⟩
  · exact ⟨_, execLdr_pointer_fault r ix ind addr s hi (Nat.not_lt.2 hp), pointer_fault_frame ix addr s⟩
  · exact ⟨_, execLdr_data_fault r ix ind addr s hp (Nat.not_lt.2 he), data_fault_frame ix ind addr s⟩

/-- Settles O27: the two ends of LDA, each with its frame. -/
theorem ldaLoadsTheEffectiveAddressItself : Obligations.LdaLoadsTheEffectiveAddressItself := by
  unfold Obligations.LdaLoadsTheEffectiveAddressItself
  refine fun r ix ind addr s => ⟨rfl, fun hp => ?_, fun hi hp => ?_⟩
  · obtain ⟨hgprs, hixrs, hwords, hcontrol⟩ := setGpr_frame r (BitVec.ofNat 16 (finalAddress ix ind addr s).toNat)
      (sameButAccess_afterAddress s ind (indexedAddress ix addr s))
    have hvalue : (BitVec.ofNat 16 (finalAddress ix ind addr s).toNat).toNat = (finalAddress ix ind addr s).toNat := by
      rw [BitVec.toNat_ofNat]
      omega
    refine ⟨_, execLda_ok r ix ind addr s hp, by rw [gpr_setGpr_same, hvalue], hgprs, hixrs, hwords, hcontrol, by simp,
      ?_, ?_⟩
    · rintro rfl
      simp
    · rintro rfl
      simp
  · exact ⟨_, execLda_pointer_fault r ix ind addr s hi (Nat.not_lt.2 hp), pointer_fault_frame ix addr s⟩

/-- Settles O28: the three ends of LDX, each with its frame. -/
theorem ldxLoadsTheIndexRegister : Obligations.LdxLoadsTheIndexRegister := by
  unfold Obligations.LdxLoadsTheIndexRegister
  refine fun x ind addr s => ⟨rfl, fun he => ?_, fun he => ?_, ?_, rfl⟩
  · obtain ⟨hixrs, hgprs, hwords, hcontrol⟩ := setIxr_frame x (s.memory.word (finalAddress none ind addr s).toNat)
      (sameButAccess_afterRead s ind (indexedAddress none addr s) (finalAddress none ind addr s))
    exact ⟨_, execLdx_ok x ind addr s he, ixr_setIxr_same _ _ _, hixrs, by simp, by simp, hgprs, hwords, hcontrol, by simp⟩
  · exact ⟨_, execLdx_data_fault x ind addr s (Nat.not_lt.2 he), data_fault_frame none ind addr s⟩
  · rintro rfl
    exact finalAddress_none_false_lt addr s

/-- Settles O31: each end of a load is its result on a state that only an access has changed, or a refused access. -/
theorem loadsKeepEverythingElse : Obligations.LoadsKeepEverythingElse := by
  unfold Obligations.LoadsKeepEverythingElse
  refine ⟨fun r ix ind addr i s t hi ht => ?_, fun x ind addr s t ht => ?_, fun ind addr s t ht => ?_⟩
  · have refused (h : sameButAccess s t) :
        (∀ r', r' ≠ r → t.gpr r' = s.gpr r') ∧ sameIxrs s t ∧ sameWords s t ∧ sameControl s t :=
      ⟨fun r' _ => h.1 r', h.2⟩
    obtain rfl | rfl := hi
    · cases effect_of_exec ht with
      | illegalOpcode _ _ h => cases h
      | ldr => exact setGpr_frame r _ (sameButAccess_afterRead s ind _ _)
      | ldrPointerFault => exact refused (pointer_fault_frame ix addr s).2
      | ldrDataFault => exact refused (data_fault_frame ix ind addr s).2
    · cases effect_of_exec ht with
      | illegalOpcode _ _ h => cases h
      | lda => exact setGpr_frame r _ (sameButAccess_afterAddress s ind _)
      | ldaPointerFault => exact refused (pointer_fault_frame ix addr s).2
  · cases effect_of_exec ht with
    | illegalOpcode _ _ h => cases h
    | ldx => exact setIxr_frame x _ (sameButAccess_afterRead s ind _ _)
    | ldxDataFault =>
      obtain ⟨hgprs, hixrs, hrest⟩ := (data_fault_frame none ind addr s).2
      exact ⟨fun x' _ => hixrs x', hgprs, hrest⟩
  · obtain rfl : t = raiseIllegalOperand s := next_unique ht rfl
    rfl

/-! ### Stores -/

/-- Settles O26: the three ends of STR, each with its frame. -/
theorem strStoresTheRegisterAtTheEffectiveAddress : Obligations.StrStoresTheRegisterAtTheEffectiveAddress := by
  unfold Obligations.StrStoresTheRegisterAtTheEffectiveAddress
  refine fun r ix ind addr s hwf => ⟨rfl, fun hp he => ?_, fun hi hp => ?_, fun hp he => ?_⟩
  · obtain ⟨hgprs, hixrs, hcontrol⟩ :=
      stored_frame s ind (indexedAddress ix addr s) (finalAddress ix ind addr s) (s.gpr r)
    exact ⟨_, execStr_ok r ix ind addr s hp he, word_stored_same s _ _ _ _ hwf, word_stored_ne s _ _ _ _, rfl, rfl, hgprs,
      hixrs, hcontrol, by simp⟩
  · exact ⟨_, execStr_pointer_fault r ix ind addr s hi (Nat.not_lt.2 hp), pointer_fault_frame ix addr s⟩
  · exact ⟨_, execStr_data_fault r ix ind addr s hp (Nat.not_lt.2 he), store_fault_frame ix ind addr s _⟩

/-- Settles O29: the three ends of STX, each with its frame. -/
theorem stxStoresTheIndexRegister : Obligations.StxStoresTheIndexRegister := by
  unfold Obligations.StxStoresTheIndexRegister
  refine fun x ind addr s hwf => ⟨rfl, fun he => ?_, fun he => ?_, ?_, rfl⟩
  · obtain ⟨hgprs, hixrs, hcontrol⟩ :=
      stored_frame s ind (indexedAddress none addr s) (finalAddress none ind addr s) (s.ixr x)
    exact ⟨_, execStx_ok x ind addr s he, word_stored_same s _ _ _ _ hwf, word_stored_ne s _ _ _ _, rfl, rfl, hgprs, hixrs,
      hcontrol, by simp⟩
  · exact ⟨_, execStx_data_fault x ind addr s (Nat.not_lt.2 he), store_fault_frame none ind addr s _⟩
  · rintro rfl
    exact finalAddress_none_false_lt addr s

section
variable (ix : Option Ixr) (ind : Bool) (addr : BitVec 5) (s : State)

/-- How a store of `v` ends in `t`: in the write at the effective address, or refused. -/
inductive StoreEnd (v : Word) (t : State) : Prop where
  | stored (hp : ind = true → (indexedAddress ix addr s).toNat < Config.memWords)
      (he : (finalAddress ix ind addr s).toNat < Config.memWords)
      (ht : t = (s.afterAddress ind (indexedAddress ix addr s)).afterWrite (finalAddress ix ind addr s) v)
  | refused (h : sameButAccess s t)

variable {ix ind addr s}

theorem storeEnd_of_str {r : Gpr} {t : State} (h : exec (.str r ix ind addr) s = .next t) :
    StoreEnd ix ind addr s (s.gpr r) t := by
  cases effect_of_exec h with
  | illegalOpcode _ _ hi => cases hi
  | str _ _ _ _ _ hp he => exact .stored hp he rfl
  | strPointerFault => exact .refused (pointer_fault_frame ix addr s).2
  | strDataFault => exact .refused (store_fault_frame ix ind addr s _).2

theorem storeEnd_of_stx {x : Ixr} {t : State} (h : exec (.stx (some x) ind addr) s = .next t) :
    StoreEnd none ind addr s (s.ixr x) t := by
  cases effect_of_exec h with
  | illegalOpcode _ _ hi => cases hi
  | stx _ _ _ _ he => exact .stored (fun _ => indexedAddress_none_lt addr s) he rfl
  | stxDataFault => exact .refused (store_fault_frame none ind addr s _).2

/-- An effective address that is computed without a fault is the final address. -/
theorem eaIndexed_value {e : Addr} {s' : State} (h : eaIndexed ix ind addr s = .ok e s') : e = finalAddress ix ind addr s := by
  by_cases hp : ind = true → (indexedAddress ix addr s).toNat < Config.memWords
  · rw [eaIndexed_of_ok ix ind addr s hp] at h
    cases h
    rfl
  · obtain ⟨hi, hp⟩ := Classical.not_imp.1 hp
    rw [eaIndexed_of_fault ix ind addr s hi hp] at h
    cases h

theorem StoreEnd.frame {v : Word} {t : State} (h : StoreEnd ix ind addr s v t) :
    sameGprs s t ∧ sameIxrs s t ∧ sameControl s t := by
  cases h with
  | stored hp he ht => exact ht ▸ stored_frame s _ _ _ _
  | refused h =>
    obtain ⟨hgprs, hixrs, -, hcontrol⟩ := h
    exact ⟨hgprs, hixrs, hcontrol⟩

theorem StoreEnd.word_ne {v : Word} {t : State} (h : StoreEnd ix ind addr s v t) (k : Nat)
    (hk : k ≠ (finalAddress ix ind addr s).toNat) : t.memory.word k = s.memory.word k := by
  cases h with
  | stored hp he ht => exact ht ▸ word_stored_ne s _ _ _ _ k hk
  | refused h =>
    obtain ⟨-, -, hwords, -⟩ := h
    exact hwords k

theorem StoreEnd.sameWords_of_ge {v : Word} {t : State} (h : StoreEnd ix ind addr s v t)
    (he : ¬ (finalAddress ix ind addr s).toNat < Config.memWords) : sameWords s t := by
  cases h with
  | stored hp he' ht => exact absurd he' he
  | refused h =>
    obtain ⟨-, -, hwords, -⟩ := h
    exact hwords

theorem StoreEnd.sameWords_of_fault {v : Word} {t : State} (h : StoreEnd ix ind addr s v t) {f : Fault} {s' : State}
    (hf : eaIndexed ix ind addr s = .memFault f s') : sameWords s t := by
  cases h with
  | stored hp he ht =>
    rw [eaIndexed_of_ok ix ind addr s hp] at hf
    cases hf
  | refused h =>
    obtain ⟨-, -, hwords, -⟩ := h
    exact hwords

end

/-- Settles O32: the ends of a store, with the address of the effective-address computation. -/
theorem storesKeepEverythingElse : Obligations.StoresKeepEverythingElse := by
  unfold Obligations.StoresKeepEverythingElse
  refine ⟨fun r ix ind addr s t ht => ?_, fun x ind addr s t ht => ?_, fun ind addr s t ht => ?_⟩
  · have hend := storeEnd_of_str ht
    obtain ⟨hgprs, hixrs, hcontrol⟩ := hend.frame
    refine ⟨hgprs, hixrs, hcontrol, fun e s' hea k hk => ?_, fun e s' hea he => ?_, fun f s' => hend.sameWords_of_fault⟩
    · exact hend.word_ne k (eaIndexed_value hea ▸ hk)
    · exact hend.sameWords_of_ge (Nat.not_lt.2 (eaIndexed_value hea ▸ he))
  · have hend := storeEnd_of_stx ht
    obtain ⟨hgprs, hixrs, hcontrol⟩ := hend.frame
    refine ⟨hgprs, hixrs, hcontrol, fun e s' hea k hk => ?_, fun e s' hea he => ?_⟩
    · rw [eaUnindexed_eq] at hea
      exact hend.word_ne k (eaIndexed_value hea ▸ hk)
    · rw [eaUnindexed_eq] at hea
      exact hend.sameWords_of_ge (Nat.not_lt.2 (eaIndexed_value hea ▸ he))
  · obtain rfl : t = raiseIllegalOperand s := next_unique ht rfl
    rfl

end Sys2Proof.Machine
end

section
/-! MAR and MBR after the execute phase (40_cpu_cycle.md R163). -/

namespace Sys2Proof.Machine

section
variable {r : Gpr} {ix : Option Ixr} {x : Ixr} {ind : Bool} {addr : BitVec 5} {s t : State}

theorem marMbr_of_illegal {i : Instr} (hi : illegalInstr i = true) (ht : exec i s = .next t) :
    t.mar = s.mar ∧ t.mbr = s.mbr := by
  obtain rfl := next_unique ht (exec_illegal i s hi)
  exact ⟨rfl, rfl⟩

theorem marMbr_of_ldx_none (ht : exec (.ldx none ind addr) s = .next t ∨ exec (.stx none ind addr) s = .next t) :
    t.mar = s.mar ∧ t.mbr = s.mbr := by
  have hraise : t = raiseIllegalOperand s := ht.elim (next_unique · rfl) (next_unique · rfl)
  rw [hraise]
  exact ⟨rfl, rfl⟩

theorem marMbr_of_lda_direct (ht : exec (.lda r ix false addr) s = .next t) : t.mar = s.mar ∧ t.mbr = s.mbr := by
  obtain rfl := next_unique ht (execLda_ok r ix false addr s nofun)
  simp

theorem marMbr_of_lda_indirect (ht : exec (.lda r ix true addr) s = .next t) :
    t.mar = indexedAddress ix addr s ∧
    ((indexedAddress ix addr s).toNat < Config.memWords → t.mbr = s.memory.word (indexedAddress ix addr s).toNat) ∧
    (Config.memWords ≤ (indexedAddress ix addr s).toNat → t.mbr = s.mbr) := by
  by_cases hp : (indexedAddress ix addr s).toNat < Config.memWords
  · obtain rfl := next_unique ht (execLda_ok r ix true addr s fun _ => hp)
    exact ⟨by simp, fun _ => by simp, fun h => absurd hp (Nat.not_lt.2 h)⟩
  · obtain rfl := next_unique ht (execLda_pointer_fault r ix true addr s rfl hp)
    exact ⟨rfl, fun h => absurd h hp, fun _ => rfl⟩

theorem marMbr_of_ldr (hp : ind = true → (indexedAddress ix addr s).toNat < Config.memWords)
    (ht : exec (.ldr r ix ind addr) s = .next t) :
    t.mar = finalAddress ix ind addr s ∧
    ((finalAddress ix ind addr s).toNat < Config.memWords → t.mbr = s.memory.word (finalAddress ix ind addr s).toNat) ∧
    (Config.memWords ≤ (finalAddress ix ind addr s).toNat →
      t.mbr = if ind then s.memory.word (indexedAddress ix addr s).toNat else s.mbr) := by
  by_cases he : (finalAddress ix ind addr s).toNat < Config.memWords
  · obtain rfl := next_unique ht (execLdr_ok r ix ind addr s hp he)
    exact ⟨by simp, fun _ => by simp, fun h => absurd he (Nat.not_lt.2 h)⟩
  · obtain rfl := next_unique ht (execLdr_data_fault r ix ind addr s hp he)
    exact ⟨rfl, fun h => absurd h he, fun _ => afterAddress_mbr s ind _⟩

theorem marMbr_of_str (hp : ind = true → (indexedAddress ix addr s).toNat < Config.memWords)
    (ht : exec (.str r ix ind addr) s = .next t) : t.mar = finalAddress ix ind addr s ∧ t.mbr = s.gpr r := by
  by_cases he : (finalAddress ix ind addr s).toNat < Config.memWords
  · obtain rfl := next_unique ht (execStr_ok r ix ind addr s hp he)
    exact ⟨rfl, rfl⟩
  · obtain rfl := next_unique ht (execStr_data_fault r ix ind addr s hp he)
    exact ⟨rfl, rfl⟩

theorem marMbr_of_pointer_fault (hi : ind = true) (hp : ¬ (indexedAddress ix addr s).toNat < Config.memWords)
    (ht : exec (.ldr r ix ind addr) s = .next t ∨ exec (.str r ix ind addr) s = .next t) :
    t.mar = indexedAddress ix addr s ∧ t.mbr = s.mbr := by
  rcases ht with ht | ht
  · obtain rfl := next_unique ht (execLdr_pointer_fault r ix ind addr s hi hp)
    exact ⟨rfl, rfl⟩
  · obtain rfl := next_unique ht (execStr_pointer_fault r ix ind addr s hi hp)
    exact ⟨rfl, rfl⟩

theorem marMbr_of_ldx (ht : exec (.ldx (some x) ind addr) s = .next t) :
    t.mar = finalAddress none ind addr s ∧
    ((finalAddress none ind addr s).toNat < Config.memWords → t.mbr = s.memory.word (finalAddress none ind addr s).toNat) ∧
    (Config.memWords ≤ (finalAddress none ind addr s).toNat → t.mbr = s.memory.word (indexedAddress none addr s).toNat) := by
  by_cases he : (finalAddress none ind addr s).toNat < Config.memWords
  · obtain rfl := next_unique ht (execLdx_ok x ind addr s he)
    exact ⟨by simp, fun _ => by simp, fun h => absurd he (Nat.not_lt.2 h)⟩
  · have hind : ind = true := by
      by_contra hind
      rw [Bool.not_eq_true] at hind
      exact he (hind ▸ finalAddress_none_false_lt addr s)
    obtain rfl := next_unique ht (execLdx_data_fault x ind addr s he)
    exact ⟨rfl, fun h => absurd h he, fun _ => by simp [hind]⟩

theorem marMbr_of_stx (ht : exec (.stx (some x) ind addr) s = .next t) :
    t.mar = finalAddress none ind addr s ∧ t.mbr = s.ixr x := by
  by_cases he : (finalAddress none ind addr s).toNat < Config.memWords
  · obtain rfl := next_unique ht (execStx_ok x ind addr s he)
    exact ⟨rfl, rfl⟩
  · obtain rfl := next_unique ht (execStx_data_fault x ind addr s he)
    exact ⟨rfl, rfl⟩

end

/-- Settles O42: one lemma per instruction, each by the ends it can have. -/
theorem marAndMbrAfterTheExecutePhase : Obligations.MarAndMbrAfterTheExecutePhase := by
  unfold Obligations.MarAndMbrAfterTheExecutePhase
  intro r ix x ind addr s t
  refine ⟨fun ht => ?_, fun i => marMbr_of_illegal, marMbr_of_ldx_none, marMbr_of_lda_direct, marMbr_of_lda_indirect,
    marMbr_of_ldr, marMbr_of_str, fun hi hp => marMbr_of_pointer_fault hi (Nat.not_lt.2 hp), marMbr_of_ldx, marMbr_of_stx⟩
  obtain rfl : t = { s with halted := true } := next_unique ht rfl
  exact ⟨rfl, rfl⟩

end Sys2Proof.Machine
end

section
/-! HLT and the opcodes the CPU does not execute (42_halt_and_unsupported.md). -/

namespace Sys2Proof.Machine

section
variable (s : State) (h : s.halted = false) (hp : s.pc.toNat < Config.memWords)
  (hi : decode (s.memory.word s.pc.toNat) = .hlt)
include h hp hi

theorem step_of_hlt : step s = .next { s.afterFetch with halted := true } := by
  rw [step_of_fetch s h hp, hi]
  rfl

theorem stepOutcome_of_hlt : stepOutcome s = .haltedBy .hlt := by
  rw [stepOutcome_of_step h (step_of_hlt { s with memFault := none } h hp hi), outcomeOf_halted _ rfl rfl]
  have hir : decode { s with memFault := none }.afterFetch.ir = .hlt := hi
  rw [hir, haltCause]

end

theorem decode_eq_hlt (w : Word) (h : w.toNat < 1024) : decode w = .hlt :=
  decode_of_opcode_toNat w .hlt (Nat.div_eq_of_lt h)

/-- Settles O30: HLT is opcode 0, and its step is the fetch with HALTED true. -/
theorem hltSetsHaltedOnly : Obligations.HltSetsHaltedOnly := by
  unfold Obligations.HltSetsHaltedOnly
  refine ⟨rfl, decode_eq_hlt, fun s => rfl, ?_⟩
  rintro s w h hp rfl hw
  have hi := decode_eq_hlt _ hw
  exact ⟨step_of_hlt s h hp hi, stepOutcome_of_hlt s h hp hi⟩

/-- Settles O33: each is outside the executed subset, so `exec_illegal` gives its execute phase. -/
theorem lsMnemonicsOutsideTheSubsetHalt : Obligations.LsMnemonicsOutsideTheSubsetHalt := by
  unfold Obligations.LsMnemonicsOutsideTheSubsetHalt
  intro n r cc ix ind addr s
  refine ⟨rfl, rfl, fun p hp => ?_, fun i hi => ?_⟩
  · fin_cases hp <;> rfl
  · have hill : illegalInstr i = true := by fin_cases hi <;> rfl
    exact exec_illegal i s hill

/-- Settles O35: the words of opcode 24, and `exec_illegal` for what is outside the executed subset. -/
theorem shiftAndIoMnemonicsAndTrapHalt : Obligations.ShiftAndIoMnemonicsAndTrapHalt := by
  unfold Obligations.ShiftAndIoMnemonicsAndTrapHalt
  intro n r count lr al devid s
  refine ⟨fun p hp => ?_, fun p hp => ?_, fun w h0 h1 => ?_, fun i hi => ?_⟩
  · fin_cases hp <;> rfl
  · fin_cases hp <;> rfl
  · have hop : w.toNat / 1024 = 24 := by omega
    exact decode_of_opcode_toNat w .trap hop
  · have hill : illegalInstr i = true := by fin_cases hi <;> rfl
    exact exec_illegal i s hill

/-- The unassigned rows are those without a mnemonic. -/
theorem mnemonic_eq_none_iff (i : Instr) : i.mnemonic = none ↔ i ∈ Instr.unassigned := by
  cases i <;> simp [Instr.mnemonic, Instr.unassigned]

theorem illegalInstr_of_unassigned : ∀ i ∈ Instr.unassigned, illegalInstr i = true := by decide

/-- Settles O36: the unassigned rows are those without a mnemonic, and none of them is in the executed subset. -/
theorem unassignedOpcodesHalt : Obligations.UnassignedOpcodesHalt := by
  unfold Obligations.UnassignedOpcodesHalt
  exact ⟨fun w => mnemonic_eq_none_iff (decode w), fun i hi s => exec_illegal i s (illegalInstr_of_unassigned i hi)⟩

end Sys2Proof.Machine
end

section
/-! How an execute phase and a step end, each said once as a case list with what it does to PC, IR, MFR, HALTED and the mark,
and for a step with its outcome; and the statements about the whole machine that follow from the cases. -/

namespace Sys2Proof.Machine

/-! ### The ends of an execute phase -/

/-- The instructions that access the memory: LDR, STR, LDA, and LDX and STX that name an index register. -/
def loadsOrStores : Instr → Bool
  | .ldr _ _ _ _ => true
  | .str _ _ _ _ => true
  | .lda _ _ _ _ => true
  | .ldx ix _ _ => ix.isSome
  | .stx ix _ _ => ix.isSome
  | _ => false

theorem loadsOrStores_mnemonic (i : Instr) (hi : loadsOrStores i = true) :
    ∃ m ∈ [.ldr, .str, .lda, .ldx, .stx], i.mnemonic = some m := by
  cases i with
  | ldr | str | lda | ldx | stx => simp [Instr.mnemonic]
  | _ => cases hi

/-- How the execute phase of `i` from `s` ends in `t`. -/
inductive ExecEnd (i : Instr) (s t : State) : Prop where
  | hlt (hi : i = .hlt) (ht : t = { s with halted := true })
  | illegalOpcode (hi : illegalInstr i = true) (ht : t = raiseIllegalOpcode s)
  | illegalOperand (hi : ∃ ind addr, i = .ldx none ind addr ∨ i = .stx none ind addr) (ht : t = raiseIllegalOperand s)
  | completed (hi : loadsOrStores i = true) (hc : sameControl s t) (hm : t.memFault = s.memFault)
  | refused (hi : loadsOrStores i = true) (hc : sameControl s t) (a : Nat)
      (hm : t.memFault = s.memFault.or (some (.range a)))

theorem ExecEnd.of_refused {i : Instr} {s t : State} (hi : loadsOrStores i = true) {a : Nat}
    (h : t.memFault = s.memFault.or (some (.range a)) ∧ sameButAccess s t) : ExecEnd i s t := by
  obtain ⟨hmark, -, -, -, hcontrol⟩ := h
  exact .refused hi hcontrol a hmark

theorem execEnd_of_exec {i : Instr} {s t : State} (ht : exec i s = .next t) : ExecEnd i s t := by
  cases effect_of_exec ht with
  | hlt => exact .hlt rfl rfl
  | illegalOpcode _ _ hi => exact .illegalOpcode hi rfl
  | ldxIllegal ind addr => exact .illegalOperand ⟨ind, addr, .inl rfl⟩ rfl
  | stxIllegal ind addr => exact .illegalOperand ⟨ind, addr, .inr rfl⟩ rfl
  | ldr | str | lda | ldx | stx => exact .completed rfl (by simp [sameControl]) (by simp)
  | ldrPointerFault | strPointerFault | ldaPointerFault => exact .of_refused rfl (pointer_fault_frame _ _ s)
  | ldrDataFault | ldxDataFault => exact .of_refused rfl (data_fault_frame _ _ _ s)
  | strDataFault | stxDataFault => exact .of_refused rfl (store_fault_frame _ _ _ s _)

/-! ### The ends of a step -/

section
variable (s : State) (h : s.halted = false) (hp : s.pc.toNat < Config.memWords)
  (hi : ∃ ind addr, decode (s.memory.word s.pc.toNat) = .ldx none ind addr ∨
    decode (s.memory.word s.pc.toNat) = .stx none ind addr)
include h hp hi

theorem step_of_illegalOperand : step s = .next (raiseIllegalOperand s.afterFetch) := by
  obtain ⟨ind, addr, hi | hi⟩ := hi <;> rw [step_of_fetch s h hp, hi] <;> rfl

theorem stepOutcome_of_illegalOperand : stepOutcome s = .haltedBy .illegalOperand := by
  rw [stepOutcome_of_step h (step_of_illegalOperand { s with memFault := none } h hp hi), outcomeOf_halted _ rfl rfl]
  have hir : decode (raiseIllegalOperand { s with memFault := none }.afterFetch).ir
      = decode (s.memory.word s.pc.toNat) := rfl
  obtain ⟨ind, addr, hi | hi⟩ := hi <;> rw [hir, hi, haltCause]

end

/-- The step with the mark clear, from which the outcome is told, differs in the mark only. -/
theorem step_with_clear_mark {s t : State} (h : s.halted = false) (ht : step s = .next t) :
    ∃ f, t.memFault = s.memFault.or f ∧ step { s with memFault := none } = .next { t with memFault := f } ∧
      stepOutcome s = outcomeOf { t with memFault := f } := by
  obtain ⟨f, u, hu⟩ := step_mark s h
  obtain rfl : { u with memFault := s.memFault.or f } = t :=
    Host.Outcome.next.inj ((hu s.memFault).symm.trans ht)
  exact ⟨f, rfl, hu none, stepOutcome_of_step h (hu none)⟩

/-- How a step of the RUNNING machine `s` ends in `t`, and its outcome. -/
inductive StepEnd (s t : State) : Prop where
  | fetchFault (hp : ¬ s.pc.toNat < Config.memWords)
      (ht : t = recordMemFault (.range s.pc.toNat) { s with mar := s.pc })
      (ho : stepOutcome s = .memFault (.range s.pc.toNat))
  | hlt (hp : s.pc.toNat < Config.memWords) (hi : decode (s.memory.word s.pc.toNat) = .hlt)
      (ht : t = { s.afterFetch with halted := true }) (ho : stepOutcome s = .haltedBy .hlt)
  | illegalOpcode (hp : s.pc.toNat < Config.memWords) (hi : illegalInstr (decode (s.memory.word s.pc.toNat)) = true)
      (ht : t = raiseIllegalOpcode s.afterFetch) (ho : stepOutcome s = .haltedBy .illegalOpcode)
  | illegalOperand (hp : s.pc.toNat < Config.memWords)
      (hi : ∃ ind addr, decode (s.memory.word s.pc.toNat) = .ldx none ind addr ∨
        decode (s.memory.word s.pc.toNat) = .stx none ind addr)
      (ht : t = raiseIllegalOperand s.afterFetch) (ho : stepOutcome s = .haltedBy .illegalOperand)
  | completed (hp : s.pc.toNat < Config.memWords) (m : Mnemonic) (hmem : m ∈ [.ldr, .str, .lda, .ldx, .stx])
      (hmn : (decode (s.memory.word s.pc.toNat)).mnemonic = some m) (hc : sameControl s.afterFetch t)
      (hm : t.memFault = s.memFault) (ho : stepOutcome s = .stepped m)
  | refused (hp : s.pc.toNat < Config.memWords) (hc : sameControl s.afterFetch t) (a : Nat)
      (hm : t.memFault = s.memFault.or (some (.range a))) (ho : stepOutcome s = .memFault (.range a))

theorem stepEnd_of_step {s t : State} (h : s.halted = false) (ht : step s = .next t) : StepEnd s t := by
  by_cases hp : s.pc.toNat < Config.memWords
  · obtain ⟨f, hm, hclear, ho⟩ := step_with_clear_mark h ht
    rw [step_of_fetch { s with memFault := none } h hp] at hclear
    cases execEnd_of_exec hclear with
    | hlt hi =>
      rw [step_of_hlt s h hp hi] at ht
      exact .hlt hp hi (Host.Outcome.next.inj ht).symm (stepOutcome_of_hlt s h hp hi)
    | illegalOpcode hi =>
      rw [step_of_illegal s h hp hi] at ht
      exact .illegalOpcode hp hi (Host.Outcome.next.inj ht).symm (stepOutcome_of_illegal s h hp hi)
    | illegalOperand hi =>
      rw [step_of_illegalOperand s h hp hi] at ht
      exact .illegalOperand hp hi (Host.Outcome.next.inj ht).symm (stepOutcome_of_illegalOperand s h hp hi)
    | completed hi hc hf =>
      obtain rfl : f = none := hf
      obtain ⟨m, hmem, hmn⟩ := loadsOrStores_mnemonic _ hi
      have ⟨_, hir, _, _, hh⟩ := hc
      have hstepped := outcomeOf_stepped _ m rfl (hh.trans h) ((congrArg (fun w => (decode w).mnemonic) hir).trans hmn)
      exact .completed hp m hmem hmn hc (hm.trans (Option.or_none ..)) (ho.trans hstepped)
    | refused hi hc a hf =>
      obtain rfl : f = some (.range a) := hf
      exact .refused hp hc a hm (ho.trans (outcomeOf_memFault _ _ rfl))
  · rw [step_of_fetch_fault s h hp] at ht
    exact .fetchFault hp (Host.Outcome.next.inj ht).symm (stepOutcome_of_fetch_fault s h hp)

/-- A step that fetches leaves PC one more, and the word fetched in IR. -/
theorem pc_ir_of_step {s t : State} (h : s.halted = false) (hp : s.pc.toNat < Config.memWords) (ht : step s = .next t) :
    t.pc = s.pc + 1 ∧ t.ir = s.memory.word s.pc.toNat := by
  cases stepEnd_of_step h ht with
  | fetchFault hp' => exact absurd hp hp'
  | hlt _ _ ht => exact ht ▸ ⟨rfl, rfl⟩
  | illegalOpcode _ _ ht => exact ht ▸ ⟨rfl, rfl⟩
  | illegalOperand _ _ ht => exact ht ▸ ⟨rfl, rfl⟩
  | completed _ _ _ _ hc | refused _ hc =>
    obtain ⟨hpc, hir, -⟩ := hc
    exact ⟨hpc, hir⟩

/-- Settles O41: a halted machine, a refused fetch, and `pc_ir_of_step`. -/
theorem pcAfterAStep : Obligations.PcAfterAStep := by
  unfold Obligations.PcAfterAStep
  intro s t ht
  cases h : s.halted with
  | true =>
    rw [step_of_halted s h] at ht
    cases ht
    exact ⟨fun _ => rfl, nofun⟩
  | false =>
    refine ⟨fun hp => ?_, fun _ hp => ?_⟩
    · have hp' : ¬ s.pc.toNat < Config.memWords := Nat.not_lt.2 (hp.resolve_left nofun)
      rw [step_of_fetch_fault s h hp'] at ht
      cases ht
      rfl
    · rw [(pc_ir_of_step h hp ht).1, addr_succ_toNat]

/-- Settles O39: each end of a step with its outcome. -/
theorem outcomeSaysWhatTheStepDid : Obligations.OutcomeSaysWhatTheStepDid := by
  unfold Obligations.OutcomeSaysWhatTheStepDid
  refine fun s t ht => ⟨fun h => ⟨stepOutcome_of_halted s h, ?_⟩, fun h => ?_⟩
  · rw [step_of_halted s h] at ht
    exact (Host.Outcome.next.inj ht).symm
  have hir (hp) : t.ir = s.memory.word s.pc.toNat := (pc_ir_of_step h hp ht).2
  cases stepEnd_of_step h ht with
  | fetchFault hp ht ho => exact .inr (.inr ⟨_, ho, by rw [ht]; exact h, by rw [ht]; rfl, by rw [ht]; rfl⟩)
  | hlt hp hi ht ho =>
    refine .inr (.inl ⟨_, ho, ?_⟩)
    rw [hir hp, hi]
    simp [ht, illegalInstr]
  | illegalOpcode hp hi ht ho =>
    have hne : decode (s.memory.word s.pc.toNat) ≠ .hlt := fun hlt => by simp [hlt, illegalInstr] at hi
    refine .inr (.inl ⟨_, ho, ?_⟩)
    rw [hir hp]
    simp [ht, hi, hne, mfrIllegalOpcode]
  | illegalOperand hp hi ht ho =>
    refine .inr (.inl ⟨_, ho, ?_⟩)
    rw [hir hp]
    obtain ⟨ind, addr, hi | hi⟩ := hi <;> simpa [ht, hi, illegalInstr] using mfrIllegalOperand_ne_zero
  | completed hp m hmem hmn hc hm ho =>
    obtain ⟨-, hir, -, hmfr, hh⟩ := hc
    exact .inl ⟨m, ho, hmem, (congrArg (fun w => (decode w).mnemonic) hir).trans hmn, hh.trans h, hmfr, hm⟩
  | refused hp hc a hm ho =>
    obtain ⟨-, -, -, hmfr, hh⟩ := hc
    exact .inr (.inr ⟨_, ho, hh.trans h, hmfr, hm⟩)

/-! ### The illegal operand -/

theorem ixOfField_eq_none_iff (b : BitVec 2) : ixOfField b = none ↔ b.toNat = 0 := by
  revert b
  decide

/-- LDX and STX with IX = 0, by the bits of the word. -/
theorem decode_ixZero_iff (w : Word) :
    (∃ ind addr, decode w = .ldx none ind addr ∨ decode w = .stx none ind addr) ↔
      w.toNat / 1024 ∈ [33, 34] ∧ w.toNat / 64 % 4 = 0 := by
  by_cases hop : w.toNat / 1024 ∈ [33, 34]
  · obtain ⟨m, hm, -, hd⟩ := exists_mnemonic_of_opcode w [.ldx, .stx] hop
    rw [hd]
    fin_cases hm <;> simp only [operandsOf, Instr.ldx.injEq, Instr.stx.injEq, reduceCtorEq, false_or, or_false,
      ixOfField_eq_none_iff, ixField_toNat, exists_and_left, exists_eq', and_true, hop, true_and]
  · refine iff_of_false ?_ fun h => hop h.1
    rintro ⟨ind, addr, hd⟩
    rw [← opField_toNat, ← opcodeOf_decode] at hop
    rcases hd with hd | hd
    · exact hop (hd ▸ .head _)
    · exact hop (hd ▸ .tail _ (.head _))

theorem fetched_of_illegalOperand (s : State) (ho : stepOutcome s = .haltedBy .illegalOperand) :
    s.halted = false ∧ s.pc.toNat < Config.memWords ∧
      ∃ ind addr, decode (s.memory.word s.pc.toNat) = .ldx none ind addr ∨
        decode (s.memory.word s.pc.toNat) = .stx none ind addr := by
  cases h : s.halted with
  | true =>
    rw [stepOutcome_of_halted s h] at ho
    cases ho
  | false =>
    obtain ⟨t, ht⟩ := step_next s
    cases stepEnd_of_step h ht with
    | illegalOperand hp hi => exact ⟨rfl, hp, hi⟩
    | fetchFault _ _ ho' | hlt _ _ _ ho' | illegalOpcode _ _ _ ho' | completed _ _ _ _ _ _ ho' | refused _ _ _ _ ho' =>
      rw [ho'] at ho
      cases ho

/-- Settles O38: the ends of a step, and `decode_ixZero_iff`. -/
theorem ixZeroIsTheOnlyIllegalOperand : Obligations.IxZeroIsTheOnlyIllegalOperand := by
  unfold Obligations.IxZeroIsTheOnlyIllegalOperand
  refine ⟨fun s => ⟨fun ho => ?_, ?_⟩, fun s ho => ?_, mfrIllegalOperand_ne_zero⟩
  · obtain ⟨h, hp, hi⟩ := fetched_of_illegalOperand s ho
    exact ⟨h, hp, (decode_ixZero_iff _).1 hi⟩
  · rintro ⟨h, hp, hi⟩
    exact stepOutcome_of_illegalOperand s h hp ((decode_ixZero_iff _).2 hi)
  · obtain ⟨h, hp, hi⟩ := fetched_of_illegalOperand s ho
    exact step_of_illegalOperand s h hp hi

end Sys2Proof.Machine
end

section
/-! The invariant of the machine (10_state.md R42, 40_cpu_cycle.md R164, 60_exceptions.md R270), the canonical form of the
memory, and the requests that leave HALTED and MFR alone. -/

namespace Sys2Proof.Machine

section
variable {i : Instr} {s t : State}

/-! ### What an execute phase and a step keep of the Memory -/

theorem wf_afterWrite {a : Addr} (v : Word) (hs : s.memory.wf = true) (ha : a.toNat < Config.memWords) :
    (s.afterWrite a v).memory.wf = true :=
  wf_setWord s.memory a.toNat v hs ha

theorem wf_of_exec (hs : s.memory.wf = true) (ht : exec i s = .next t) : t.memory.wf = true := by
  cases effect_of_exec ht with
  | str _ _ ind _ _ _ he => exact wf_afterWrite _ (by rwa [afterAddress_wf]) he
  | stx _ ind _ _ he => exact wf_afterWrite _ (by rwa [afterAddress_wf]) he
  | _ => simpa [Memory.wf] using hs

theorem pending_of_exec (hs : s.memory.pending = .none) (ht : exec i s = .next t) : t.memory.pending = .none := by
  have haddress (ind : Bool) (e : Addr) : (s.afterAddress ind e).memory.pending = .none := by
    cases ind
    · exact hs
    · rfl
  cases effect_of_exec ht <;> simp [hs, haddress]

theorem wf_of_step (hs : s.memory.wf = true) (ht : step s = .next t) : t.memory.wf = true := by
  cases effect_of_step ht with
  | halted => exact hs
  | fetchFault => exact hs
  | executed _ _ _ e => exact wf_of_exec (s := s.afterFetch) hs (exec_of_effect e)

theorem pending_of_step (hs : s.memory.pending = .none) (ht : step s = .next t) : t.memory.pending = .none := by
  cases effect_of_step ht with
  | halted => exact hs
  | fetchFault => exact hs
  | executed _ _ _ e => exact pending_of_exec (s := s.afterFetch) rfl (exec_of_effect e)

/-! ### The invariant -/

/-- Only a halt by a fault writes MFR, and no halt by HLT and no completed or refused access does. -/
theorem mfr_of_step (h : s.halted = false) (ht : step s = .next t) :
    t.mfr = s.mfr ∨ (t.mfr = mfrIllegalOpcode ∨ t.mfr = mfrIllegalOperand) ∧ t.halted = true := by
  cases stepEnd_of_step h ht with
  | fetchFault _ ht => exact .inl (ht ▸ rfl)
  | hlt _ _ ht => exact .inl (ht ▸ rfl)
  | illegalOpcode _ _ ht => exact .inr (ht ▸ ⟨.inl rfl, rfl⟩)
  | illegalOperand _ _ ht => exact .inr (ht ▸ ⟨.inr rfl, rfl⟩)
  | completed _ _ _ _ hc | refused _ hc =>
    obtain ⟨-, -, -, hmfr, -⟩ := hc
    exact .inl hmfr

end

/-- Settles O50: the Memory's part is kept by every execute phase, and a RUNNING machine has MFR 0. -/
theorem stepKeepsTheInvariant : Obligations.StepKeepsTheInvariant := by
  unfold Obligations.StepKeepsTheInvariant
  rintro s t ⟨hwf, hpending, hcode, hfault⟩ ht
  refine ⟨wf_of_step hwf ht, pending_of_step hpending ht, ?_⟩
  cases h : s.halted with
  | true =>
    rw [step_of_halted s h] at ht
    cases ht
    exact ⟨hcode, hfault⟩
  | false =>
    have hzero : s.mfr = 0 := by
      by_contra hne
      exact absurd (hfault hne) (by simp [h])
    rcases mfr_of_step h ht with hmfr | ⟨hmfr, hhalted⟩
    · rw [hmfr, hzero]
      exact ⟨.inl rfl, fun hne => absurd rfl hne⟩
    · exact ⟨.inr hmfr, fun _ => hhalted⟩

/-- Settles O51: every field is a literal. -/
theorem resetHasTheInvariant : Obligations.ResetHasTheInvariant := by
  unfold Obligations.ResetHasTheInvariant
  exact ⟨reset_memory_wf, rfl, .inl rfl, fun hne => absurd rfl hne⟩

/-! ### The requests of the host -/

theorem executeOneStep_keeps (P : State → Prop) (hP : ∀ s t, P s → step s = .next t → P t) (s : State) (hs : P s) :
    P (executeOneStep s).2 := by
  obtain ⟨t, ht⟩ := step_next s
  rw [executeOneStep_of_step ht]
  exact hP s t hs ht

/-- A request keeps the canonical form: a step and a run do, and so does each operation of the Memory. -/
theorem wf_of_hostOp (op : HostOp) (s : State) (hs : s.memory.wf = true) : (hostOp op s).2.memory.wf = true := by
  have hstep : ∀ s t : State, s.memory.wf = true → step s = .next t → t.memory.wf = true := fun _ _ => wf_of_step
  apply hostOp_cases op s (·.memory.wf = true)
  case same => exact hs
  case reset => exact fun _ => reset_memory_wf
  case fetched => exact fun _ => hs
  case addressFault => exact fun _ _ => hs
  case read => exact fun _ => hs
  case written => exact fun a v ha => wf_afterWrite v hs ha
  case writeFault => exact fun _ _ _ => hs
  case stepped => exact fun _ => executeOneStep_keeps (·.memory.wf = true) hstep s hs
  case ran => exact fun c _ => runSteps_keeps (·.memory.wf = true) hstep c.val s hs
  case halted => exact fun _ => hs
  case set =>
    intro x v _
    cases x <;> simpa [State.setReg] using hs
  case memory => exact fun _ m hm => hm hs

/-- Settles O52: one request, and the list by induction. -/
theorem hostOperationsKeepMemoryCanonical : Obligations.HostOperationsKeepMemoryCanonical := by
  unfold Obligations.HostOperationsKeepMemoryCanonical
  refine ⟨wf_of_hostOp, fun ops => ?_⟩
  induction ops with
  | nil => exact fun s hs => hs
  | cons op ops ih => exact fun s hs => ih _ (wf_of_hostOp op s hs)

end Sys2Proof.Machine
end

section
/-! Which instructions and requests change an item of state, and which do not look at it (10_state.md R33 to R43). -/

namespace Sys2Proof.Machine

/-! ### General registers, index registers and memory -/

section
variable {i : Instr} {s t : State}

theorem gpr_changed_by_exec {r : Gpr} (ht : exec i s = .next t) (hne : t.gpr r ≠ s.gpr r) :
    ∃ ix ind addr, i = .ldr r ix ind addr ∨ i = .lda r ix ind addr := by
  cases effect_of_exec ht with
  | ldr r' ix ind addr =>
    by_cases hr : r = r'
    · exact ⟨ix, ind, addr, .inl (hr ▸ rfl)⟩
    · exact absurd (by simp [gpr_setGpr_ne _ _ _ _ hr]) hne
  | lda r' ix ind addr =>
    by_cases hr : r = r'
    · exact ⟨ix, ind, addr, .inr (hr ▸ rfl)⟩
    · exact absurd (by simp [gpr_setGpr_ne _ _ _ _ hr]) hne
  | _ => exact absurd (by simp) hne

theorem ixr_changed_by_exec {x : Ixr} (ht : exec i s = .next t) (hne : t.ixr x ≠ s.ixr x) :
    ∃ ind addr, i = .ldx (some x) ind addr := by
  cases effect_of_exec ht with
  | ldx x' ind addr =>
    by_cases hx : x = x'
    · exact ⟨ind, addr, hx ▸ rfl⟩
    · exact absurd (by simp [ixr_setIxr_ne _ _ _ _ hx]) hne
  | _ => exact absurd (by simp) hne

theorem StoreEnd.changed {ix : Option Ixr} {ind : Bool} {addr : BitVec 5} {v : Word} {k : Nat}
    (hend : StoreEnd ix ind addr s v t) (hne : t.memory.word k ≠ s.memory.word k) :
    k < Config.memWords ∧ k = (finalAddress ix ind addr s).toNat := by
  have hk : k = (finalAddress ix ind addr s).toNat := by
    by_contra hk
    exact hne (hend.word_ne k hk)
  refine ⟨?_, hk⟩
  by_contra he
  exact hne (hend.sameWords_of_ge (hk ▸ he) k)

theorem word_changed_by_exec {k : Nat} (ht : exec i s = .next t) (hne : t.memory.word k ≠ s.memory.word k) :
    k < Config.memWords ∧
    ((∃ r ix ind addr, i = .str r ix ind addr ∧ k = (finalAddress ix ind addr s).toNat) ∨
      ∃ x ind addr, i = .stx (some x) ind addr ∧ k = (finalAddress none ind addr s).toNat) := by
  cases effect_of_exec ht with
  | str r ix ind addr =>
    obtain ⟨hk, ha⟩ := (storeEnd_of_str ht).changed hne
    exact ⟨hk, .inl ⟨r, ix, ind, addr, rfl, ha⟩⟩
  | stx x ind addr =>
    obtain ⟨hk, ha⟩ := (storeEnd_of_stx ht).changed hne
    exact ⟨hk, .inr ⟨x, ind, addr, rfl, ha⟩⟩
  | _ => exact absurd (by simp) hne

end

/-- Settles O45: the effects that change an index register or a word. -/
theorem onlyLdxAndStoresChangeIndexRegistersAndMemory : Obligations.OnlyLdxAndStoresChangeIndexRegistersAndMemory := by
  unfold Obligations.OnlyLdxAndStoresChangeIndexRegistersAndMemory
  exact ⟨fun i s t x => ixr_changed_by_exec, fun i s t k => word_changed_by_exec⟩

/-! ### A change of the state that an execute phase does not look at -/

/-- `g` changes nothing that an address computation, an access or a halt reads or writes. -/
structure Unseen (g : State → State) : Prop where
  memory : ∀ s, (g s).memory = s.memory
  ixr : ∀ s x, (g s).ixr x = s.ixr x
  afterRead : ∀ s a, (g s).afterRead a = g (s.afterRead a)
  afterWrite : ∀ s a v, (g s).afterWrite a v = g (s.afterWrite a v)
  readFault : ∀ s a, { g s with mar := a } = g { s with mar := a }
  writeFault : ∀ s a v, { g s with mar := a, mbr := v } = g { s with mar := a, mbr := v }
  recordMemFault : ∀ s f, recordMemFault f (g s) = g (recordMemFault f s)
  setIxr : ∀ s x v, (g s).setIxr x v = g (s.setIxr x v)
  hlt : ∀ s, { g s with halted := true } = g { s with halted := true }
  illegalOpcode : ∀ s, raiseIllegalOpcode (g s) = g (raiseIllegalOpcode s)
  illegalOperand : ∀ s, raiseIllegalOperand (g s) = g (raiseIllegalOperand s)

/-- An operation with its state changed by `g`, whatever it comes to. -/
def Access.mapState {α : Type} (g : State → State) : Access α → Access α
  | .ok value s => .ok value (g s)
  | .memFault f s => .memFault f (g s)

theorem Access.bind_mapState {α β : Type} {g : State → State} {x x' : Access α} {next next' : α → State → Access β}
    (hx : x = x'.mapState g) (hnext : ∀ value s, next value (g s) = (next' value s).mapState g) :
    x.bind next = (x'.bind next').mapState g := by
  subst hx
  cases x' with
  | ok value s => exact hnext value s
  | memFault f s => rfl

namespace Unseen
variable {g : State → State} (hg : Unseen g)
include hg

theorem settle {x x' : Access Unit} {t : State} (hx : x = x'.mapState g) (ht : Machine.settle x' = .next t) :
    Machine.settle x = .next (g t) := by
  subst hx
  cases x' with
  | ok value s =>
    cases ht
    rfl
  | memFault f s =>
    cases ht
    exact congrArg Host.Outcome.next (hg.recordMemFault s f)

theorem memRead (a : Addr) (s : State) : Machine.memRead a (g s) = (Machine.memRead a s).mapState g := by
  by_cases ha : a.toNat < Config.memWords
  · rw [memRead_of_lt a _ ha, memRead_of_lt a _ ha, hg.memory, hg.afterRead, Access.mapState]
  · rw [memRead_of_ge a _ ha, memRead_of_ge a _ ha, hg.readFault, Access.mapState]

theorem memWrite (a : Addr) (v : Word) (s : State) :
    Machine.memWrite a v (g s) = (Machine.memWrite a v s).mapState g := by
  by_cases ha : a.toNat < Config.memWords
  · rw [memWrite_of_lt a v _ ha, memWrite_of_lt a v _ ha, hg.afterWrite, Access.mapState]
  · rw [memWrite_of_ge a v _ ha, memWrite_of_ge a v _ ha, hg.writeFault, Access.mapState]

theorem indexedAddress (ix : Option Ixr) (addr : BitVec 5) (s : State) :
    Machine.indexedAddress ix addr (g s) = Machine.indexedAddress ix addr s := by
  cases ix with
  | none => rfl
  | some x => rw [Machine.indexedAddress, Machine.indexedAddress, hg.ixr]

theorem finalAddress (ix : Option Ixr) (ind : Bool) (addr : BitVec 5) (s : State) :
    Machine.finalAddress ix ind addr (g s) = Machine.finalAddress ix ind addr s := by
  rw [Machine.finalAddress, Machine.finalAddress, hg.indexedAddress, hg.memory]

theorem eaIndexed (ix : Option Ixr) (ind : Bool) (addr : BitVec 5) (s : State) :
    Machine.eaIndexed ix ind addr (g s) = (Machine.eaIndexed ix ind addr s).mapState g := by
  rw [Machine.eaIndexed, Machine.eaIndexed, hg.indexedAddress]
  cases ind with
  | false => rfl
  | true => exact Access.bind_mapState (hg.memRead _ s) fun w s => rfl

theorem ldr {r : Gpr} {ix : Option Ixr} {ind : Bool} {addr : BitVec 5} {s t : State}
    (hset : ∀ s v, (g s).setGpr r v = g (s.setGpr r v)) (ht : exec (.ldr r ix ind addr) s = .next t) :
    exec (.ldr r ix ind addr) (g s) = .next (g t) := by
  refine hg.settle (Access.bind_mapState (hg.eaIndexed ix ind addr s) fun e s => ?_) ht
  exact Access.bind_mapState (hg.memRead e s) fun w s => congrArg (Access.ok ()) (hset s w)

theorem str {r : Gpr} {ix : Option Ixr} {ind : Bool} {addr : BitVec 5} {s t : State}
    (hget : ∀ s, (g s).gpr r = s.gpr r) (ht : exec (.str r ix ind addr) s = .next t) :
    exec (.str r ix ind addr) (g s) = .next (g t) := by
  refine hg.settle (Access.bind_mapState (hg.eaIndexed ix ind addr s) fun e s => ?_) ht
  rw [hget]
  exact hg.memWrite e (s.gpr r) s

theorem lda {r : Gpr} {ix : Option Ixr} {ind : Bool} {addr : BitVec 5} {s t : State}
    (hset : ∀ s v, (g s).setGpr r v = g (s.setGpr r v)) (ht : exec (.lda r ix ind addr) s = .next t) :
    exec (.lda r ix ind addr) (g s) = .next (g t) :=
  hg.settle (Access.bind_mapState (hg.eaIndexed ix ind addr s) fun _ s => congrArg (Access.ok ()) (hset s _)) ht

theorem ldx {ix : Option Ixr} {ind : Bool} {addr : BitVec 5} {s t : State} (ht : exec (.ldx ix ind addr) s = .next t) :
    exec (.ldx ix ind addr) (g s) = .next (g t) := by
  cases ix with
  | none =>
    obtain rfl : t = raiseIllegalOperand s := next_unique ht rfl
    exact congrArg Host.Outcome.next (hg.illegalOperand s)
  | some x =>
    refine hg.settle (Access.bind_mapState (hg.eaIndexed none ind addr s) fun e s => ?_) ht
    exact Access.bind_mapState (hg.memRead e s) fun w s => congrArg (Access.ok ()) (hg.setIxr s x w)

theorem stx {ix : Option Ixr} {ind : Bool} {addr : BitVec 5} {s t : State} (ht : exec (.stx ix ind addr) s = .next t) :
    exec (.stx ix ind addr) (g s) = .next (g t) := by
  cases ix with
  | none =>
    obtain rfl : t = raiseIllegalOperand s := next_unique ht rfl
    exact congrArg Host.Outcome.next (hg.illegalOperand s)
  | some x =>
    refine hg.settle (Access.bind_mapState (hg.eaIndexed none ind addr s) fun e s => ?_) ht
    rw [hg.ixr]
    exact hg.memWrite e (s.ixr x) s

/-- Every instruction that uses no general register. -/
theorem exec_of_no_gpr {i : Instr} {s t : State}
    (hi : ∀ r ix ind addr, i ≠ .ldr r ix ind addr ∧ i ≠ .str r ix ind addr ∧ i ≠ .lda r ix ind addr)
    (ht : exec i s = .next t) : exec i (g s) = .next (g t) := by
  by_cases hill : illegalInstr i = true
  · obtain rfl := next_unique ht (exec_illegal i s hill)
    rw [exec_illegal i _ hill, hg.illegalOpcode]
  · cases i with
    | hlt =>
      obtain rfl : t = { s with halted := true } := next_unique ht rfl
      exact congrArg Host.Outcome.next (hg.hlt s)
    | ldr r ix ind addr | str r ix ind addr | lda r ix ind addr =>
      obtain ⟨hldr, hstr, hlda⟩ := hi r ix ind addr
      contradiction
    | ldx => exact hg.ldx ht
    | stx => exact hg.stx ht
    | _ => exact absurd rfl hill

end Unseen

theorem unseen_setGpr (r : Gpr) (v : Word) : Unseen (·.setGpr r v) where
  memory s := setGpr_memory s r v
  ixr s x := ixr_setGpr s r x v
  afterRead _ _ := by cases r <;> rfl
  afterWrite _ _ _ := by cases r <;> rfl
  readFault _ _ := by cases r <;> rfl
  writeFault _ _ _ := by cases r <;> rfl
  recordMemFault _ _ := by cases r <;> rfl
  setIxr _ x _ := by cases r <;> cases x <;> rfl
  hlt _ := by cases r <;> rfl
  illegalOpcode _ := by cases r <;> rfl
  illegalOperand _ := by cases r <;> rfl

theorem unseen_cc (c : Nibble) : Unseen fun s => { s with cc := c } where
  memory _ := rfl
  ixr _ x := by cases x <;> rfl
  afterRead _ _ := rfl
  afterWrite _ _ _ := rfl
  readFault _ _ := rfl
  writeFault _ _ _ := rfl
  recordMemFault _ _ := rfl
  setIxr _ x _ := by cases x <;> rfl
  hlt _ := rfl
  illegalOpcode _ := rfl
  illegalOperand _ := rfl

/-- Settles O44: the effects that change a general register, and that the others do not see one. -/
theorem generalRegistersAreUsedOnlyAsStated : Obligations.GeneralRegistersAreUsedOnlyAsStated := by
  unfold Obligations.GeneralRegistersAreUsedOnlyAsStated
  exact ⟨fun i s t r => gpr_changed_by_exec, fun i s t r v => (unseen_setGpr r v).exec_of_no_gpr,
    fun ix ind addr s r v => ⟨(unseen_setGpr r v).indexedAddress ix addr s, (unseen_setGpr r v).finalAddress ix ind addr s⟩⟩

/-! ### CC -/

theorem exec_cc (i : Instr) {s t : State} (c : Nibble) (ht : exec i s = .next t) :
    exec i { s with cc := c } = .next { t with cc := c } := by
  have hc := unseen_cc c
  have hset (r : Gpr) (s : State) (v : Word) : { s with cc := c }.setGpr r v = { s.setGpr r v with cc := c } := by
    cases r <;> rfl
  cases i with
  | ldr r => exact hc.ldr (hset r) ht
  | str r => exact hc.str (fun s => gpr_of_fields s _ _ _ _ _ _ _ _ _ _ _ _ r) ht
  | lda r => exact hc.lda (hset r) ht
  | _ => exact hc.exec_of_no_gpr (fun _ _ _ _ => ⟨nofun, nofun, nofun⟩) ht

theorem cc_of_exec {i : Instr} {s t : State} (ht : exec i s = .next t) : t.cc = s.cc := by
  cases effect_of_exec ht <;> simp

theorem step_cc {s t : State} (c : Nibble) (ht : step s = .next t) :
    step { s with cc := c } = .next { t with cc := c } := by
  rcases Bool.eq_false_or_eq_true s.halted with h | h
  · rw [step_of_halted s h] at ht
    cases ht
    exact step_of_halted { s with cc := c } h
  · by_cases hp : s.pc.toNat < Config.memWords
    · rw [step_of_fetch s h hp] at ht
      exact (step_of_fetch { s with cc := c } h hp).trans (exec_cc _ c ht)
    · rw [step_of_fetch_fault s h hp] at ht
      cases ht
      exact step_of_fetch_fault { s with cc := c } h hp

theorem cc_of_step {s t : State} (ht : step s = .next t) : t.cc = s.cc := by
  cases effect_of_step ht with
  | halted => rfl
  | fetchFault => rfl
  | executed _ _ _ e => exact cc_of_exec (s := s.afterFetch) (exec_of_effect e)

/-! ### Requests

Each lemma names the requests that can change an item of state; the others are refused, access the memory, or touch another
item. -/

theorem cc_changed_by_hostOp (op : HostOp) (s : State) :
    (hostOp op s).2.cc ≠ s.cc → op = .resetAll ∨ ∃ v, op = .setReg .cc v := by
  have hstep : ∀ t u : State, t.cc = s.cc → step t = .next u → u.cc = s.cc := fun _ _ ht hu => (cc_of_step hu).trans ht
  apply hostOp_cases op s fun t => t.cc ≠ s.cc → op = .resetAll ∨ ∃ v, op = .setReg .cc v
  case reset => exact fun hop _ => .inl hop
  case stepped => exact fun _ hne => absurd (executeOneStep_keeps (·.cc = s.cc) hstep s rfl) hne
  case ran => exact fun c _ hne => absurd (runSteps_keeps (·.cc = s.cc) hstep c.val s rfl) hne
  case set =>
    intro x v hop hne
    cases x with
    | cc => exact .inr ⟨v, hop⟩
    | _ => exact absurd (by simp [State.setReg]) hne
  all_goals intros; contradiction

theorem mfr_changed_by_hostOp (op : HostOp) (s : State) :
    (hostOp op s).2.mfr ≠ s.mfr →
    op = .resetAll ∨ (∃ v, op = .setReg .mfr v) ∨ op = .executeOneStep ∨ ∃ n, op = .runUntilHaltedOrCeiling n := by
  apply hostOp_cases op s fun t => t.mfr ≠ s.mfr →
    op = .resetAll ∨ (∃ v, op = .setReg .mfr v) ∨ op = .executeOneStep ∨ ∃ n, op = .runUntilHaltedOrCeiling n
  case reset => exact fun hop _ => .inl hop
  case stepped => exact fun hop _ => .inr (.inr (.inl hop))
  case ran => exact fun c hop _ => .inr (.inr (.inr ⟨c, hop⟩))
  case set =>
    intro x v hop hne
    cases x with
    | mfr => exact .inr (.inl ⟨v, hop⟩)
    | _ => exact absurd (by simp [State.setReg]) hne
  all_goals intros; contradiction

theorem setReg_halted (s : State) (x : RegName) (v : Int) : (s.setReg x v).halted = s.halted := by
  cases x <;> simp [State.setReg]

theorem halted_kept_by_hostOp (op : HostOp) (s : State) (h : s.halted = true) (hop : op ≠ .resetAll) :
    (hostOp op s).2.halted = true := by
  apply hostOp_cases op s (·.halted = true)
  case reset => exact fun hreset => absurd hreset hop
  case stepped => exact fun _ => (executeOneStep_of_halted s h).symm ▸ h
  case ran => exact fun c _ => (congrArg (·.2.halted) (runSteps_of_halted c.val s h)).trans h
  case halted => exact fun _ => rfl
  case set => exact fun x v _ => (setReg_halted s x v).trans h
  all_goals intros; exact h

theorem halted_set_by_hostOp (op : HostOp) (s : State) (h : s.halted = false) :
    (hostOp op s).2.halted = true → op = .halt ∨ op = .executeOneStep ∨ ∃ n, op = .runUntilHaltedOrCeiling n := by
  apply hostOp_cases op s fun t => t.halted = true →
    op = .halt ∨ op = .executeOneStep ∨ ∃ n, op = .runUntilHaltedOrCeiling n
  case reset => exact fun _ => nofun
  case stepped => exact fun hop _ => .inr (.inl hop)
  case ran => exact fun c hop _ => .inr (.inr ⟨c, hop⟩)
  case halted => exact fun hop _ => .inl hop
  case set => exact fun x v _ ht => absurd ((setReg_halted s x v).symm.trans ht) (by simp [h])
  all_goals intros; exact absurd (h.symm.trans ‹_›) Bool.false_ne_true

/-- Settles O43: CC is unseen by every execute phase, and kept by every effect. -/
theorem ccIsReadAndWrittenByNoInstruction : Obligations.CcIsReadAndWrittenByNoInstruction := by
  unfold Obligations.CcIsReadAndWrittenByNoInstruction
  refine ⟨fun i s t c ht => ⟨cc_of_exec ht, exec_cc i c ht⟩, fun s t c ht => ⟨cc_of_step ht, step_cc c ht⟩,
    fun Condition meaning s t ht => ?_, cc_changed_by_hostOp⟩
  rw [State.conditions, State.conditions, cc_of_step ht]

/-- Settles O46: the ends of an execute phase that write MFR, and the requests. -/
theorem mfrIsWrittenByTheTwoFaultsOnly : Obligations.MfrIsWrittenByTheTwoFaultsOnly := by
  unfold Obligations.MfrIsWrittenByTheTwoFaultsOnly
  refine ⟨fun i s t ht hne => ?_, mfr_changed_by_hostOp⟩
  cases execEnd_of_exec ht with
  | hlt _ ht => exact absurd (ht ▸ rfl) hne
  | illegalOpcode hi ht => exact .inl ⟨hi, ht ▸ rfl⟩
  | illegalOperand hi ht => exact .inr ⟨hi, ht ▸ rfl⟩
  | completed _ hc | refused _ hc =>
    obtain ⟨-, -, -, hmfr, -⟩ := hc
    exact absurd hmfr hne

theorem not_halting_of_loadsOrStores (i : Instr) (hi : loadsOrStores i = true) :
    ¬ (i = .hlt ∨ illegalInstr i = true ∨ ∃ ind addr, i = .ldx none ind addr ∨ i = .stx none ind addr) := by
  rintro (rfl | hill | ⟨ind, addr, rfl | rfl⟩)
  · cases hi
  · cases i with
    | ldr | str | lda | ldx | stx => cases hill
    | _ => cases hi
  · cases hi
  · cases hi

/-- Settles O47: the ends of an execute phase that set HALTED, and the requests. -/
theorem onlyResetLeavesHalted : Obligations.OnlyResetLeavesHalted := by
  unfold Obligations.OnlyResetLeavesHalted
  refine ⟨rfl, halted_kept_by_hostOp, halted_set_by_hostOp, fun i s t ht h => ?_, step_of_halted, fun s => rfl⟩
  cases execEnd_of_exec ht with
  | hlt hi ht => exact iff_of_true (ht ▸ rfl) (.inl hi)
  | illegalOpcode hi ht => exact iff_of_true (ht ▸ rfl) (.inr (.inl hi))
  | illegalOperand hi ht => exact iff_of_true (ht ▸ rfl) (.inr (.inr hi))
  | completed hi hc | refused hi hc =>
    obtain ⟨-, -, -, -, hhalted⟩ := hc
    exact iff_of_false (by simp [hhalted, h]) (not_halting_of_loadsOrStores i hi)

/-- Settles O55: the state after reset is literal, and `halted_kept_by_hostOp`. -/
theorem resetAllGivesTheAllZeroState : Obligations.ResetAllGivesTheAllZeroState := by
  unfold Obligations.ResetAllGivesTheAllZeroState
  refine fun s => ⟨State.reset, rfl, rfl, fun x => ?_, fun a => rfl, rfl, rfl, rfl, fun op u hu ht => ?_⟩
  · rcases x with (_ | _ | _ | _) | (_ | _ | _) | _ | _ | _ | _ | _ | _ <;> rfl
  · by_contra hop
    rw [halted_kept_by_hostOp op u hu hop] at ht
    cases ht

end Sys2Proof.Machine
end

section
/-! Runs (40_cpu_cycle.md R161, 70_reset_and_hazards.md R302): what a run reports and how it continues, and that it stops. -/

namespace Sys2Proof.Machine

/-- With a step left, a RUNNING machine takes it, and the run ends with its `MemFault` or goes on. -/
theorem runSteps_succ_cases (n : Nat) (s : State) (h : s.halted = false) :
    ∃ t, step s = .next t ∧
      ((∃ f, stepOutcome s = .memFault f ∧ runSteps (n + 1) s = (.memFault f, t)) ∨
        (∀ f, stepOutcome s ≠ .memFault f) ∧ runSteps (n + 1) s = runSteps n t) := by
  obtain ⟨t, ht⟩ := step_next s
  have hs := executeOneStep_of_step ht
  by_cases ho : ∃ f, stepOutcome s = .memFault f
  · obtain ⟨f, ho⟩ := ho
    exact ⟨t, ht, .inl ⟨f, ho, runSteps_of_memFault n h (ho ▸ hs)⟩⟩
  · rw [not_exists] at ho
    exact ⟨t, ht, .inr ⟨ho, runSteps_of_step n h hs ho⟩⟩

section
variable {s t : State} (h : s.halted = false) (ht : step s = .next t)
include h ht

/-- A step whose outcome is a `MemFault` leaves the machine RUNNING, with the fault added to the mark. -/
theorem marked_of_memFault {f : Fault} (ho : stepOutcome s = .memFault f) :
    t.halted = false ∧ t.memFault = s.memFault.or (some f) := by
  cases stepEnd_of_step h ht with
  | fetchFault _ ht ho' =>
    rw [ho'] at ho
    cases ho
    exact ht ▸ ⟨h, rfl⟩
  | refused _ hc _ hm ho' =>
    rw [ho'] at ho
    cases ho
    obtain ⟨-, -, -, -, hhalted⟩ := hc
    exact ⟨hhalted.trans h, hm⟩
  | hlt _ _ _ ho' | illegalOpcode _ _ _ ho' | illegalOperand _ _ _ ho' | completed _ _ _ _ _ _ ho' =>
    rw [ho'] at ho
    cases ho

theorem memFault_kept_of_step (ho : ∀ f, stepOutcome s ≠ .memFault f) : t.memFault = s.memFault := by
  cases stepEnd_of_step h ht with
  | fetchFault _ _ ho' => exact absurd ho' (ho _)
  | refused _ _ _ _ ho' => exact absurd ho' (ho _)
  | hlt _ _ ht => exact ht ▸ rfl
  | illegalOpcode _ _ ht => exact ht ▸ rfl
  | illegalOperand _ _ ht => exact ht ▸ rfl
  | completed _ _ _ _ _ hm => exact hm

end

/-- What the report of a run from `s` says of the state it ends in. -/
def RunReport (s : State) : RunOutcome × State → Prop
  | (.halted, t) => t.halted = true
  | (.ceilingReached, t) => t.halted = false
  | (.memFault f, t) => t.halted = false ∧ t.memFault = s.memFault.or (some f)

theorem RunReport.of_mark_eq {s t : State} {p : RunOutcome × State} (hm : t.memFault = s.memFault) (hp : RunReport t p) :
    RunReport s p := by
  obtain ⟨_ | _ | f, u⟩ := p
  · exact hp
  · exact hp
  · exact ⟨hp.1, hm ▸ hp.2⟩

theorem runSteps_report (n : Nat) (s : State) : RunReport s (runSteps n s) := by
  induction n generalizing s with
  | zero =>
    cases h : s.halted with
    | true => exact (runSteps_of_halted 0 s h).symm ▸ h
    | false => exact (runSteps_zero s h).symm ▸ h
  | succ n ih =>
    cases h : s.halted with
    | true => exact (runSteps_of_halted (n + 1) s h).symm ▸ h
    | false =>
      obtain ⟨t, ht, ⟨f, ho, hrun⟩ | ⟨ho, hrun⟩⟩ := runSteps_succ_cases n s h
      · exact hrun.symm ▸ marked_of_memFault h ht ho
      · exact hrun.symm ▸ (ih t).of_mark_eq (memFault_kept_of_step h ht ho)

theorem runSteps_add (n m : Nat) (s : State) (hceiling : (runSteps n s).1 = .ceilingReached) :
    runSteps (n + m) s = runSteps m (runSteps n s).2 := by
  induction n generalizing s with
  | zero =>
    cases h : s.halted with
    | true =>
      rw [runSteps_of_halted 0 s h] at hceiling
      cases hceiling
    | false => rw [Nat.zero_add, runSteps_zero s h]
  | succ n ih =>
    cases h : s.halted with
    | true =>
      rw [runSteps_of_halted (n + 1) s h] at hceiling
      cases hceiling
    | false =>
      obtain ⟨t, ht, ⟨f, ho, hrun⟩ | ⟨ho, hrun⟩⟩ := runSteps_succ_cases n s h
      · rw [hrun] at hceiling
        cases hceiling
      · rw [hrun] at hceiling ⊢
        rw [Nat.succ_add, runSteps_of_step (n + m) h (executeOneStep_of_step ht) ho, ih t hceiling]

/-- Settles O53: the equations of the loop, what its report says, and the longer loop. -/
theorem runReportsAndContinues : Obligations.RunReportsAndContinues := by
  unfold Obligations.RunReportsAndContinues
  refine ⟨fun c s => rfl, runSteps_of_halted, runSteps_zero, fun n s t f h ht ho => ?_, fun n s t h ht ho => ?_,
    fun n s hrun => ?_, fun n s hrun => ?_, fun n s t f hrun => ?_, runSteps_add⟩
  · exact runSteps_of_memFault n h (ho ▸ executeOneStep_of_step ht)
  · exact runSteps_of_step n h (executeOneStep_of_step ht) ho
  · have hreport := runSteps_report n s
    rwa [← Prod.eta (runSteps n s), hrun] at hreport
  · have hreport := runSteps_report n s
    rwa [← Prod.eta (runSteps n s), hrun] at hreport
  · have hreport := runSteps_report n s
    rwa [hrun] at hreport

/-- Each step that does not end the run takes PC one address nearer to the end of the memory, where the fetch faults. -/
theorem runSteps_ne_ceilingReached (n : Nat) (s : State) (hpc : s.pc.toNat ≤ Config.memWords)
    (hn : Config.memWords - s.pc.toNat < n) : (runSteps n s).1 ≠ .ceilingReached := by
  induction n generalizing s with
  | zero => exact absurd hn (Nat.not_lt_zero _)
  | succ n ih =>
    cases h : s.halted with
    | true => simp [runSteps_of_halted (n + 1) s h]
    | false =>
      obtain ⟨t, ht, ⟨f, -, hrun⟩ | ⟨ho, hrun⟩⟩ := runSteps_succ_cases n s h
      · simp [hrun]
      · have hp : s.pc.toNat < Config.memWords := by
          by_contra hp
          exact ho _ (stepOutcome_of_fetch_fault s h hp)
        have ht' : t.pc.toNat = s.pc.toNat + 1 := by
          rw [(pc_ir_of_step h hp ht).1, addr_succ_toNat]
          rw [memWords_eq] at hp
          omega
        rw [hrun]
        exact ih t (by omega) (by omega)

/-- Settles O54: the bound above, from a PC inside the memory. -/
theorem everyRunStopsWithinTheMemory : Obligations.EveryRunStopsWithinTheMemory := by
  unfold Obligations.EveryRunStopsWithinTheMemory
  exact fun s c hpc hc => runSteps_ne_ceilingReached c.val s (Nat.le_succ_of_le hpc) hc

end Sys2Proof.Machine
end

section
/-! The protocol across CPU operations (40_cpu_cycle.md R164), and stores that the next fetch reads (20_memory.md R83). -/

namespace Sys2Proof.Machine

/-! ### No protocol fault -/

/-- The fault of a CPU operation, if it has one, is a range fault. -/
def Access.RangeOnly {α : Type} : Access α → Prop
  | .ok _ _ => True
  | .memFault f _ => f ≠ .protocol

theorem memRead_rangeOnly (a : Addr) (s : State) : (memRead a s).RangeOnly := by
  by_cases ha : a.toNat < Config.memWords
  · rw [memRead_of_lt a s ha]
    trivial
  · rw [memRead_of_ge a s ha]
    exact nofun

theorem memWrite_rangeOnly (a : Addr) (v : Word) (s : State) : (memWrite a v s).RangeOnly := by
  by_cases ha : a.toNat < Config.memWords
  · rw [memWrite_of_lt a v s ha]
    trivial
  · rw [memWrite_of_ge a v s ha]
    exact nofun

theorem Access.bind_rangeOnly {α β : Type} {x : Access α} {next : α → State → Access β} (hx : x.RangeOnly)
    (hnext : ∀ value s, (next value s).RangeOnly) : (x.bind next).RangeOnly := by
  cases x with
  | ok value s => exact hnext value s
  | memFault f s => exact hx

theorem fetch_rangeOnly (s : State) : (fetch s).RangeOnly :=
  Access.bind_rangeOnly (memRead_rangeOnly s.pc s) fun _ _ => trivial

theorem eaIndexed_rangeOnly (ix : Option Ixr) (ind : Bool) (addr : BitVec 5) (s : State) :
    (eaIndexed ix ind addr s).RangeOnly := by
  cases ind with
  | false => trivial
  | true => exact Access.bind_rangeOnly (memRead_rangeOnly _ s) fun _ _ => trivial

theorem reply_ne_protocol {α : Type} {x : Access α} {f : α → Reply} (hx : x.RangeOnly)
    (hf : ∀ value, f value ≠ .memFault .protocol) : (x.reply f).1 ≠ .memFault .protocol := by
  cases x with
  | ok value s => exact hf value
  | memFault e s => exact fun he => hx (Reply.memFault.inj he)

theorem validated_ne_protocol {args : List (Int × Nat)} {s : State} {run : Reply × State}
    (hrun : run.1 ≠ .memFault .protocol) : (validated args s run).1 ≠ .memFault .protocol := by
  by_cases hargs : outOfRange args = []
  · rwa [validated_ok args s run hargs]
  · obtain ⟨a, -, ha⟩ := validated_refused args s run hargs
    rw [ha]
    exact nofun

theorem stepOutcome_ne_protocol (s : State) : stepOutcome s ≠ .memFault .protocol := by
  cases h : s.halted with
  | true =>
    rw [stepOutcome_of_halted s h]
    exact nofun
  | false =>
    obtain ⟨t, ht⟩ := step_next s
    cases stepEnd_of_step h ht with
    | fetchFault _ _ ho | hlt _ _ _ ho | illegalOpcode _ _ _ ho | illegalOperand _ _ _ ho | completed _ _ _ _ _ _ ho
      | refused _ _ _ _ ho =>
      rw [ho]
      exact nofun

theorem runSteps_ne_protocol (n : Nat) (s : State) : (runSteps n s).1 ≠ .memFault .protocol := by
  induction n generalizing s with
  | zero =>
    cases h : s.halted with
    | true => simp [runSteps_of_halted 0 s h]
    | false => simp [runSteps_zero s h]
  | succ n ih =>
    cases h : s.halted with
    | true => simp [runSteps_of_halted (n + 1) s h]
    | false =>
      obtain ⟨t, -, ⟨f, ho, hrun⟩ | ⟨-, hrun⟩⟩ := runSteps_succ_cases n s h
      · rw [hrun]
        rintro ⟨⟩
        exact stepOutcome_ne_protocol s ho
      · rw [hrun]
        exact ih t

/-! ### Nothing pending -/

/-- The requests that can leave something pending are the host's own use of the Memory; every other one leaves nothing
pending where nothing was. -/
theorem pending_of_hostOp (op : HostOp) (s : State) (hs : s.memory.pending = .none)
    (hop : ¬ ((∃ a v, op = .poke a v) ∨ (∃ a, op = .latchRead a) ∨ (∃ a, op = .latchWrite a) ∨ op = .transferRead ∨
      ∃ v, op = .transferWrite v)) : (hostOp op s).2.memory.pending = .none := by
  have hstep : ∀ s t : State, s.memory.pending = .none → step s = .next t → t.memory.pending = .none :=
    fun _ _ => pending_of_step
  apply hostOp_cases op s (·.memory.pending = .none)
  case stepped => exact fun _ => executeOneStep_keeps (·.memory.pending = .none) hstep s hs
  case ran => exact fun c _ => runSteps_keeps (·.memory.pending = .none) hstep c.val s hs
  case set =>
    intro x v _
    cases x <;> simpa [State.setReg] using hs
  case memory => exact fun h => absurd h hop
  case reset => exact fun _ => rfl
  case fetched => exact fun _ => rfl
  case read => exact fun _ => rfl
  case written => exact fun _ _ _ => rfl
  all_goals intros; exact hs

/-- Settles O48: what steps, runs and the host's CPU operations leave pending, and the faults they can end in. -/
theorem stepsKeepTheProtocol : Obligations.StepsKeepTheProtocol := by
  unfold Obligations.StepsKeepTheProtocol
  refine ⟨fun s t ht hs => pending_of_step hs ht, fun s c a v ix ind addr hs op hop => ?_, stepOutcome_ne_protocol,
    fun s c => runSteps_ne_protocol c.val s, fun s a v ix ind addr op hop => ?_⟩
  · apply pending_of_hostOp op s hs
    fin_cases hop <;> simp
  · fin_cases hop
    · exact reply_ne_protocol (fetch_rangeOnly s) nofun
    · exact validated_ne_protocol (reply_ne_protocol (memRead_rangeOnly _ s) nofun)
    · exact validated_ne_protocol (reply_ne_protocol (memWrite_rangeOnly _ _ s) nofun)
    · exact validated_ne_protocol (reply_ne_protocol (eaIndexed_rangeOnly _ _ _ s) nofun)

/-! ### A store and the next fetch -/

/-- A fetch reads the word at PC into IR. -/
theorem fetch_of_word {t : State} {p : Addr} {v : Word} (hpc : t.pc = p) (hp : p.toNat < Config.memWords)
    (hword : t.memory.word p.toNat = v) : ∃ u, fetch t = .ok v u ∧ u.ir = v ∧ u.memory.word p.toNat = v := by
  subst hpc hword
  exact ⟨_, fetch_of_lt t hp, rfl, rfl⟩

/-- The fetch after a store at PC. -/
theorem fetch_of_stored {s : State} {ind : Bool} {e a : Addr} {v : Word} (hwf : s.memory.wf = true)
    (ha : a.toNat < Config.memWords) (hpc : a = s.pc) :
    ∃ u, fetch ((s.afterAddress ind e).afterWrite a v) = .ok v u ∧ u.ir = v ∧ u.memory.word s.pc.toNat = v := by
  subst hpc
  exact fetch_of_word (by simp) ha (word_stored_same s ind e s.pc v hwf)

/-- Settles O49: the store leaves PC alone, and its word is read after it is written. -/
theorem aStoreIsSeenByTheNextFetch : Obligations.AStoreIsSeenByTheNextFetch := by
  unfold Obligations.AStoreIsSeenByTheNextFetch
  refine ⟨fun r ix ind addr s t hwf hp he hpc ht => ?_, fun x ind addr s t hwf he hpc ht => ?_, fun v s hwf hp => ?_⟩
  · obtain rfl := next_unique ht (execStr_ok r ix ind addr s hp he)
    exact fetch_of_stored hwf he hpc
  · obtain rfl := next_unique ht (execStx_ok x ind addr s he)
    exact fetch_of_stored hwf he hpc
  · obtain ⟨u, hu, hir, -⟩ := fetch_of_word (t := { s with memory := s.memory.setWord s.pc.toNat v }) rfl hp
      (word_setWord_same s.memory s.pc.toNat v hwf)
    exact ⟨_, u, hostOp_poke_of_lt s s.pc.toNat v hp, hu, hir⟩

end Sys2Proof.Machine
end

section
/-! The host's operations on the CPU (43_boundary_operations.md R242 to R253): each is the CPU's own operation on arguments in
range, and is refused where one is out of range. -/

namespace Sys2Proof.Machine

/-! ### Arguments -/

/-- A refused request names an argument that is out of its range, and changes nothing. -/
theorem validated_of_out {args : List (Int × Nat)} (s : State) (run : Reply × State)
    (h : ∃ p ∈ args, p.1 < 0 ∨ (p.2 : Int) ≤ p.1) :
    ∃ p ∈ args, (p.1 < 0 ∨ (p.2 : Int) ≤ p.1) ∧ validated args s run = (.memFault (.range p.1), s) := by
  obtain ⟨p, hp, hout⟩ := h
  have hne : outOfRange args ≠ [] := List.ne_nil_of_mem ((mem_outOfRange args p.1).2 ⟨p.2, hp, hout⟩)
  obtain ⟨a, ha, hval⟩ := validated_refused args s run hne
  obtain ⟨n, hn, hout'⟩ := (mem_outOfRange args a).1 ha
  exact ⟨(a, n), hn, hout', hval⟩

/-- Where one argument is out of range, it is the one that is named. -/
theorem validated_of_one_out {args : List (Int × Nat)} (s : State) (run : Reply × State) {a : Int}
    (h : outOfRange args = [a]) : validated args s run = (.memFault (.range a), s) := by
  rw [validated, h, argumentFault]

theorem ofInt_toNat {n : Nat} (v : BitVec n) : BitVec.ofInt n v.toNat = v := by
  rw [BitVec.ofInt_natCast, BitVec.ofNat_toNat, BitVec.setWidth_eq]

theorem addr_toNat (a : Nat) (h : a < 4096) : (BitVec.ofNat 12 a).toNat = a := by
  rw [BitVec.toNat_ofNat]
  exact Nat.mod_eq_of_lt h

/-! ### read-word and write-word -/

section
variable (s : State) (a : Nat) (v : Word) (ha : a < 4096)
include ha

theorem hostOp_readWord : hostOp (.readWord a) s = (memRead (BitVec.ofNat 12 a) s).reply .word := by
  have hargs : outOfRange [((a : Int), 4096)] = [] := by
    rw [outOfRange_cons_in _ _ _ (by omega) (by omega), outOfRange_nil]
  rw [hostOp, validated_ok _ _ _ hargs, BitVec.ofInt_natCast]

theorem hostOp_writeWord :
    hostOp (.writeWord a v.toNat) s = (memWrite (BitVec.ofNat 12 a) v s).reply fun _ => .ok := by
  have hargs : outOfRange [((a : Int), 4096), ((v.toNat : Int), 65536)] = [] := by
    rw [outOfRange_cons_in _ _ _ (by omega) (by omega), outOfRange_cons_in _ _ _ (by omega) (by omega), outOfRange_nil]
  rw [hostOp, validated_ok _ _ _ hargs, BitVec.ofInt_natCast, ofInt_toNat]

theorem hostOp_readWord_of_ge (h : ¬ a < Config.memWords) :
    hostOp (.readWord a) s =
      (.memFault (.range a), { s with mar := BitVec.ofNat 12 a, memFault := s.memFault.or (some (.range a)) }) := by
  have hge : ¬ (BitVec.ofNat 12 a).toNat < Config.memWords := by rwa [addr_toNat a ha]
  rw [hostOp_readWord s a ha, memRead_of_ge _ _ hge, addr_toNat a ha, Access.reply, recordMemFault]

theorem hostOp_writeWord_of_ge (h : ¬ a < Config.memWords) :
    hostOp (.writeWord a v.toNat) s =
      (.memFault (.range a),
        { s with mar := BitVec.ofNat 12 a, mbr := v, memFault := s.memFault.or (some (.range a)) }) := by
  have hge : ¬ (BitVec.ofNat 12 a).toNat < Config.memWords := by rwa [addr_toNat a ha]
  rw [hostOp_writeWord s a v ha, memWrite_of_ge _ _ _ hge, addr_toNat a ha, Access.reply, recordMemFault]

end

section
variable (s : State) (a : Nat) (v : Word) (h : a < Config.memWords)
include h

theorem hostOp_readWord_of_lt :
    hostOp (.readWord a) s = (.word (s.memory.word a), s.afterRead (BitVec.ofNat 12 a)) := by
  have ha : a < 4096 := h.trans (by decide)
  have hlt : (BitVec.ofNat 12 a).toNat < Config.memWords := by rwa [addr_toNat a ha]
  rw [hostOp_readWord s a ha, memRead_of_lt _ _ hlt, addr_toNat a ha, Access.reply]

theorem hostOp_writeWord_of_lt : hostOp (.writeWord a v.toNat) s = (.ok, s.afterWrite (BitVec.ofNat 12 a) v) := by
  have ha : a < 4096 := h.trans (by decide)
  have hlt : (BitVec.ofNat 12 a).toNat < Config.memWords := by rwa [addr_toNat a ha]
  rw [hostOp_writeWord s a v ha, memWrite_of_lt _ _ _ hlt, Access.reply]

end

/-- Settles O56: the access in range, the refused latch, and the refused argument. -/
theorem readWordAndWriteWord : Obligations.ReadWordAndWriteWord := by
  unfold Obligations.ReadWordAndWriteWord
  intro s hwf
  have hmar (a : Nat) (ha : a < 2048) : (BitVec.ofNat 12 a).toNat = a := addr_toNat a (ha.trans (by decide))
  refine ⟨fun a ha => ?_, fun a h ha => hostOp_readWord_of_ge s a ha (Nat.not_lt.2 h), fun a ha => ?_, fun a v ha => ?_,
    fun a v h ha => hostOp_writeWord_of_ge s a v ha (Nat.not_lt.2 h), fun a v hout => ?_, fun a v ha h0 h1 => ?_,
    fun a v h0 h1 hv => ?_⟩
  · obtain ⟨hwords, hgprs, hixrs, hcontrol⟩ := afterRead_frame (BitVec.ofNat 12 a) s
    exact ⟨_, hostOp_readWord_of_lt s a ha, hmar a ha, congrArg s.memory.word (hmar a ha), hwords, hgprs, hixrs, hcontrol⟩
  · exact validated_of_one_out s _ (by rw [outOfRange_cons_out _ _ _ ha, outOfRange_nil])
  · obtain ⟨hgprs, hixrs, hcontrol⟩ := afterWrite_frame (BitVec.ofNat 12 a) v s
    have hsame := word_afterWrite_same (BitVec.ofNat 12 a) v s hwf
    have hne := word_afterWrite_ne (BitVec.ofNat 12 a) v s
    rw [hmar a ha] at hsame hne
    exact ⟨_, hostOp_writeWord_of_lt s a v ha, hmar a ha, rfl, hsame, hne, hgprs, hixrs, hcontrol⟩
  · have hbad : ∃ p ∈ [(a, 4096), (v, 65536)], p.1 < 0 ∨ ((p.2 : Nat) : Int) ≤ p.1 := by simpa [or_assoc] using hout
    obtain ⟨p, hp, hpout, hval⟩ := validated_of_out s _ hbad
    refine ⟨p.1, ?_, hval⟩
    fin_cases hp
    · exact .inl ⟨rfl, hpout⟩
    · exact .inr ⟨rfl, hpout⟩
  · exact validated_of_one_out s _
      (by rw [outOfRange_cons_out _ _ _ ha, outOfRange_cons_in _ _ _ h0 h1, outOfRange_nil])
  · exact validated_of_one_out s _
      (by rw [outOfRange_cons_in _ _ _ h0 h1, outOfRange_cons_out _ _ _ hv, outOfRange_nil])

/-! ### compute-effective-address -/

theorem ixNumber_lt (ix : Option Ixr) : ixNumber ix < 4 := by
  rcases ix with _ | (_ | _ | _) <;> decide

theorem indirectNumber_lt (ind : Bool) : indirectNumber ind < 2 := by
  cases ind <;> decide

section
variable (ix : Option Ixr) (ind : Bool) (addr : BitVec 5) (s : State)

theorem hostOp_computeEffectiveAddress :
    hostOp (.computeEffectiveAddress (ixNumber ix) (indirectNumber ind) addr.toNat) s =
      (eaIndexed ix ind addr s).reply .address := by
  have hargs : outOfRange [((ixNumber ix : Int), 4), ((indirectNumber ind : Int), 2), ((addr.toNat : Int), 32)] = [] := by
    have := ixNumber_lt ix
    have := indirectNumber_lt ind
    rw [outOfRange_cons_in _ _ _ (by omega) (by omega), outOfRange_cons_in _ _ _ (by omega) (by omega),
      outOfRange_cons_in _ _ _ (by omega) (by omega), outOfRange_nil]
  rw [hostOp, validated_ok _ _ _ hargs, BitVec.ofInt_natCast, BitVec.ofInt_natCast, ofInt_toNat, ixOfField_ixNumber,
    indirectOfField_indirectNumber]

theorem computeEffectiveAddress_reply (hp : ind = true → (indexedAddress ix addr s).toNat < Config.memWords) :
    (hostOp (.computeEffectiveAddress (ixNumber ix) (indirectNumber ind) addr.toNat) s).1 =
      .address (finalAddress ix ind addr s) := by
  rw [hostOp_computeEffectiveAddress, eaIndexed_of_ok ix ind addr s hp, Access.reply]

end

/-- Settles O57: the CPU's effective address on arguments in range, and the refused arguments. -/
theorem computeEffectiveAddressOfTheHost : Obligations.ComputeEffectiveAddressOfTheHost := by
  unfold Obligations.ComputeEffectiveAddressOfTheHost
  refine ⟨fun ix ind addr s => ?_, fun a b c s hout => ?_, fun a b c s ha hb hc => ?_, fun a b c s ha hb hc => ?_,
    fun a b c s ha hb hc => ?_, fun s hix hword => ?_⟩
  · rw [hostOp_computeEffectiveAddress]
    cases eaIndexed ix ind addr s <;> rfl
  · have hbad : ∃ p ∈ [(a, 4), (b, 2), (c, 32)], p.1 < 0 ∨ ((p.2 : Nat) : Int) ≤ p.1 := by
      simpa [or_assoc] using hout
    obtain ⟨p, hp, hpout, hval⟩ := validated_of_out s _ hbad
    refine ⟨p.1, ?_, hval⟩
    fin_cases hp
    · exact .inl ⟨rfl, hpout⟩
    · exact .inr (.inl ⟨rfl, hpout⟩)
    · exact .inr (.inr ⟨rfl, hpout⟩)
  · exact validated_of_one_out s _ (by rw [outOfRange_cons_out _ _ _ ha, outOfRange_cons_in _ _ _ hb.1 hb.2,
      outOfRange_cons_in _ _ _ hc.1 hc.2, outOfRange_nil])
  · exact validated_of_one_out s _ (by rw [outOfRange_cons_in _ _ _ ha.1 ha.2, outOfRange_cons_out _ _ _ hb,
      outOfRange_cons_in _ _ _ hc.1 hc.2, outOfRange_nil])
  · exact validated_of_one_out s _ (by rw [outOfRange_cons_in _ _ _ ha.1 ha.2, outOfRange_cons_in _ _ _ hb.1 hb.2,
      outOfRange_cons_out _ _ _ hc, outOfRange_nil])
  · have hindexed : indexedAddress (some .x1) 12#5 s = 17#12 := by
      simp [indexedAddress, State.ixr, hix]
    have hfinal : finalAddress (some .x1) true 12#5 s = 23#12 := by
      simp [finalAddress, hindexed, hword, pointerAddress]
    have hpointer : (indexedAddress (some .x1) 12#5 s).toNat < Config.memWords := by
      rw [hindexed]
      decide
    exact ⟨computeEffectiveAddress_reply none false 12#5 s nofun,
      (computeEffectiveAddress_reply (some .x1) false 12#5 s nofun).trans (congrArg Reply.address hindexed),
      (computeEffectiveAddress_reply (some .x1) true 12#5 s fun _ => hpointer).trans (congrArg Reply.address hfinal)⟩

/-! ### The remaining requests -/

theorem reg_lt (s : State) (x : RegName) : s.reg x < 2 ^ x.width := by
  cases x <;> exact BitVec.isLt _

/-- Settles O58: each request's equation, and the refused arguments of a poke. -/
theorem theRemainingHostRequests : Obligations.TheRemainingHostRequests := by
  unfold Obligations.TheRemainingHostRequests
  intro s
  refine ⟨fun hp => ?_, fun hp => ?_, fun t ht => ?_, fun c => rfl, rfl, rfl, fun x => ⟨rfl, reg_lt s x⟩,
    fun a v h0 h1 hv => ?_, fun a v ha hv => ?_⟩
  · refine ⟨_, fetch_of_lt s hp, ?_⟩
    rw [hostOp, fetch_of_lt s hp, Access.reply]
  · rw [hostOp, fetch_of_ge s (Nat.not_lt.2 hp), Access.reply, recordMemFault]
  · rw [hostOp, executeOneStep_of_step ht]
  · exact validated_of_one_out s _
      (by rw [outOfRange_cons_in _ _ _ h0 h1, outOfRange_cons_out _ _ _ hv, outOfRange_nil])
  · obtain ⟨p, hp, -, hval⟩ := validated_of_out (args := [(a, 2048), (v, 65536)]) s _ ⟨(a, 2048), .head _, ha⟩
    fin_cases hp
    · exact .inl hval
    · exact .inr hval

/-! ### The debug write -/

theorem ofInt_toNat_eq_emod (n : Nat) (v : Int) : ((BitVec.ofInt n v).toNat : Int) = v % 2 ^ n := by
  rw [BitVec.toNat_ofInt, Int.toNat_of_nonneg (Int.emod_nonneg _ (by positivity))]
  norm_cast

section
variable (s : State) (x y : RegName) (v : Int)

theorem reg_setReg_same : ((s.setReg x v).reg x : Int) = v % 2 ^ x.width := by
  cases x <;> simp only [State.setReg, State.reg, RegName.width, gpr_setGpr_same, ixr_setIxr_same, ofInt_toNat_eq_emod]

theorem reg_setReg_ne (h : y ≠ x) : (s.setReg x v).reg y = s.reg y := by
  cases x with
  | gpr r =>
    cases y with
    | gpr r' => exact congrArg BitVec.toNat (gpr_setGpr_ne s r r' _ fun hr => h (hr ▸ rfl))
    | _ => simp [State.setReg, State.reg]
  | ixr x =>
    cases y with
    | ixr x' => exact congrArg BitVec.toNat (ixr_setIxr_ne s x x' _ fun hx => h (hx ▸ rfl))
    | _ => simp [State.setReg, State.reg]
  | _ => cases y <;> simp [State.setReg, State.reg] at h ⊢

theorem setReg_memory : (s.setReg x v).memory = s.memory := by
  cases x <;> simp [State.setReg]

theorem setReg_memFault : (s.setReg x v).memFault = s.memFault := by
  cases x <;> simp [State.setReg]

end

/-- Settles O59: the written register, and the others one by one. -/
theorem debugWriteMasksToTheWidth : Obligations.DebugWriteMasksToTheWidth := by
  unfold Obligations.DebugWriteMasksToTheWidth
  intro s x v
  exact ⟨reg_setReg_same s x v, fun y => reg_setReg_ne s x y v, rfl, setReg_halted s x v, setReg_memory s x v,
    setReg_memFault s x v⟩

end Sys2Proof.Machine
end
